-- ==== Sys2Proof/Word.lean ====
section
/-! DEFINITION. The two word types of QRENC. -/
namespace Sys2Proof

/-- A byte of a byte array; also an element of GF(256) (R140). -/
abbrev Byte := BitVec 8

/-- A 32-bit register or command word (R8, R110). -/
abbrev Word := BitVec 32

end Sys2Proof
end

