-- ==== Sys2Proof/Syntax.lean ====
section
/-! DEFINITION. The commands of QRENC-1: one constructor per row of spec/opcode_table.json (R113). -/
namespace Sys2Proof

/-- The ECC level (R170). -/
inductive Ecl where
  | low
  | medium
  | quartile
  | high
deriving DecidableEq, Repr

/-- A command with its operands as the command rules read them (R112): `m`, `x` and `y` of the s12 kinds are signed. -/
inductive Instr where
  /-- GF_MUL x, y (R146) -/
  | gfMul (x y : Byte)
  /-- RS_DIVISOR degree (R147) -/
  | rsDivisor (degree : Nat)
  /-- RS_REMAINDER off, len (R148) -/
  | rsRemainder (off len : Nat)
  /-- CONFIG version, ecl (R176) -/
  | config (version : Nat) (ecl : Ecl)
  /-- ECC_INTERLEAVE (R180) -/
  | eccInterleave
  /-- DRAW_TIMING (R202) -/
  | drawTiming
  /-- DRAW_FINDERS (R204) -/
  | drawFinders
  /-- DRAW_ALIGNMENT (R207) -/
  | drawAlignment
  /-- DRAW_FORMAT m (R210) -/
  | drawFormat (m : Int)
  /-- DRAW_VERSION (R213) -/
  | drawVersion
  /-- DRAW_FUNCTION_PATTERNS (R214) -/
  | drawFunctionPatterns
  /-- DRAW_CODEWORDS (R233) -/
  | drawCodewords
  /-- APPLY_MASK m (R252) -/
  | applyMask (m : Int)
  /-- PENALTY (R261) -/
  | penalty
  /-- FINALIZE m (R263) -/
  | finalize (m : Int)
  /-- ENCODE m (R290) -/
  | encodeSymbol (m : Int)
  /-- GET_MODULE x, y (R291) -/
  | getModule (x y : Int)
deriving DecidableEq, Repr

end Sys2Proof
end

