-- ==== Sys2Proof/WellFormed.lean ====
section
/-! DEFINITION. Which command terms have a word: the assembler's field checks of R118. A command's own range check
(RangeError) is not one of them. -/
namespace Sys2Proof

/-- A u8 operand fits its field (R112). -/
def fitsU8 (n : Nat) : Bool := decide (n < 256)

/-- A u12 operand fits its field (R112). -/
def fitsU12 (n : Nat) : Bool := decide (n < 4096)

/-- An s12 operand fits its field (R112). -/
def fitsS12 (m : Int) : Bool := decide (-2048 ≤ m ∧ m ≤ 2047)

/-- R118: "The assembler refuses an operand outside its field". The operands of GF_MUL and the ecl operand fit by their types. -/
def Instr.wellFormed : Instr → Bool
  | .gfMul _ _ => true
  | .rsDivisor degree => fitsU8 degree
  | .rsRemainder off len => fitsU12 off && fitsU12 len
  | .config version _ => fitsU12 version
  | .eccInterleave => true
  | .drawTiming => true
  | .drawFinders => true
  | .drawAlignment => true
  | .drawFormat m => fitsS12 m
  | .drawVersion => true
  | .drawFunctionPatterns => true
  | .drawCodewords => true
  | .applyMask m => fitsS12 m
  | .penalty => true
  | .finalize m => fitsS12 m
  | .encodeSymbol m => fitsS12 m
  | .getModule x y => fitsS12 x && fitsS12 y

end Sys2Proof
end

