-- ==== Sys2Proof/Decode.lean ====
section
/-! DEFINITION. The command word (R110 to R115): fields, the opcode table, the decoder and, after it, the encoder. -/
namespace Sys2Proof

/-! ### Fields (R110) -/

/-- OP, bits [7:0]. -/
def opField (w : Word) : Byte := w.extractLsb' 0 8

/-- A, bits [19:8]. -/
def aField (w : Word) : BitVec 12 := w.extractLsb' 8 12

/-- B, bits [31:20]. -/
def bField (w : Word) : BitVec 12 := w.extractLsb' 20 12

/-! ### The opcode table in mask and match form (R113) -/

/-- One row of R113: a word `w` selects the row when `w &&& mask = pattern`. -/
structure OpRow where
  mnemonic : String
  mask : Word
  pattern : Word
deriving DecidableEq, Repr

/-- The table of R113 (the numbers of spec/opcode_table.json). -/
def opcodeTable : List OpRow :=
  [ ⟨"GF_MUL", 0xF00F00FF#32, 0x01#32⟩,
    ⟨"RS_DIVISOR", 0xFFFF00FF#32, 0x02#32⟩,
    ⟨"RS_REMAINDER", 0x000000FF#32, 0x03#32⟩,
    ⟨"CONFIG", 0xFFC000FF#32, 0x10#32⟩,
    ⟨"ECC_INTERLEAVE", 0xFFFFFFFF#32, 0x11#32⟩,
    ⟨"DRAW_TIMING", 0xFFFFFFFF#32, 0x20#32⟩,
    ⟨"DRAW_FINDERS", 0xFFFFFFFF#32, 0x21#32⟩,
    ⟨"DRAW_ALIGNMENT", 0xFFFFFFFF#32, 0x22#32⟩,
    ⟨"DRAW_FORMAT", 0xFFF000FF#32, 0x23#32⟩ ] ++
  [ ⟨"DRAW_VERSION", 0xFFFFFFFF#32, 0x24#32⟩,
    ⟨"DRAW_FUNCTION_PATTERNS", 0xFFFFFFFF#32, 0x2F#32⟩,
    ⟨"DRAW_CODEWORDS", 0xFFFFFFFF#32, 0x30#32⟩,
    ⟨"APPLY_MASK", 0xFFF000FF#32, 0x40#32⟩,
    ⟨"PENALTY", 0xFFFFFFFF#32, 0x41#32⟩,
    ⟨"FINALIZE", 0xFFF000FF#32, 0x42#32⟩,
    ⟨"ENCODE", 0xFFF000FF#32, 0x50#32⟩,
    ⟨"GET_MODULE", 0x000000FF#32, 0x60#32⟩ ]

/-- `w` selects `r` (R113). -/
def OpRow.selects (r : OpRow) (w : Word) : Bool := w &&& r.mask == r.pattern

/-! ### Decoding (R112, R115) -/

/-- Why a word is illegal (R115): (a) its OP is not assigned, (b) a reserved bit of its row is 1. -/
inductive DecodeReject where
  | unassignedOpcode (op : Byte)
  | reservedBits (op : Byte)
deriving DecidableEq, Repr

/-- The field carries a u8: its bits [11:8] are 0 (R112). -/
def isU8 (field : BitVec 12) : Bool := field.extractLsb' 8 4 == 0#4

/-- The field is not used: all its bits are 0 (R111). -/
def isZero (field : BitVec 12) : Bool := field == 0#12

/-- The field carries an ecl: its bits [11:2] are 0 (R112). -/
def isEcl (field : BitVec 12) : Bool := field.extractLsb' 2 10 == 0#10

/-- The u8 operand of a field (R112). -/
def u8Of (field : BitVec 12) : Byte := field.extractLsb' 0 8

/-- The ECC level of an ecl operand (R112, R170). -/
def eclOf (field : BitVec 12) : Ecl :=
  match (field.extractLsb' 0 2).toNat with
  | 0 => .low
  | 1 => .medium
  | 2 => .quartile
  | _ => .high

/-- The decoded command when the reserved bits are 0, the rejection by name when not (R115 (b)). -/
def guardReserved (ok : Bool) (w : Word) (i : Instr) : Except DecodeReject Instr :=
  if ok then .ok i else .error (.reservedBits (opField w))

/-- A command word's command, or why it is illegal (R113, R115). Total on every word. -/
def decode (w : Word) : Except DecodeReject Instr :=
  match (opField w).toNat with
  | 0x01 => guardReserved (isU8 (aField w) && isU8 (bField w)) w (.gfMul (u8Of (aField w)) (u8Of (bField w)))
  | 0x02 => guardReserved (isU8 (aField w) && isZero (bField w)) w (.rsDivisor (u8Of (aField w)).toNat)
  | 0x03 => .ok (.rsRemainder (aField w).toNat (bField w).toNat)
  | 0x10 => guardReserved (isEcl (bField w)) w (.config (aField w).toNat (eclOf (bField w)))
  | 0x11 => guardReserved (isZero (aField w) && isZero (bField w)) w .eccInterleave
  | 0x20 => guardReserved (isZero (aField w) && isZero (bField w)) w .drawTiming
  | 0x21 => guardReserved (isZero (aField w) && isZero (bField w)) w .drawFinders
  | 0x22 => guardReserved (isZero (aField w) && isZero (bField w)) w .drawAlignment
  | 0x23 => guardReserved (isZero (bField w)) w (.drawFormat (aField w).toInt)
  | 0x24 => guardReserved (isZero (aField w) && isZero (bField w)) w .drawVersion
  | 0x2F => guardReserved (isZero (aField w) && isZero (bField w)) w .drawFunctionPatterns
  | 0x30 => guardReserved (isZero (aField w) && isZero (bField w)) w .drawCodewords
  | 0x40 => guardReserved (isZero (bField w)) w (.applyMask (aField w).toInt)
  | 0x41 => guardReserved (isZero (aField w) && isZero (bField w)) w .penalty
  | 0x42 => guardReserved (isZero (bField w)) w (.finalize (aField w).toInt)
  | 0x50 => guardReserved (isZero (bField w)) w (.encodeSymbol (aField w).toInt)
  | 0x60 => .ok (.getModule (aField w).toInt (bField w).toInt)
  | _ => .error (.unassignedOpcode (opField w))

/-- The command of an opcode-table word of `nbits` bits whose value is `w`; bits from `nbits` up are 0. A command is one
32-bit word (R117), so a value that needs more bits is no command. -/
def decodeTableWord (nbits w : Nat) : Option Instr :=
  if w % 2 ^ nbits < 2 ^ 32 then (decode (BitVec.ofNat 32 (w % 2 ^ nbits))).toOption else none

/-! ### Encoding (R118) -/

/-- R118: "word = OP | (A << 8) | (B << 20)". -/
def packWord (op : Byte) (a b : BitVec 12) : Word :=
  op.setWidth 32 ||| (a.setWidth 32 <<< 8) ||| (b.setWidth 32 <<< 20)

/-- The ordinal of an ECC level (R170): the ecl operand, the ECL register and the table index. -/
def Ecl.ordinal : Ecl → Nat
  | .low => 0
  | .medium => 1
  | .quartile => 2
  | .high => 3

/-- The opcode of a command (R113). -/
def opcodeOf : Instr → Byte
  | .gfMul _ _ => 0x01
  | .rsDivisor _ => 0x02
  | .rsRemainder _ _ => 0x03
  | .config _ _ => 0x10
  | .eccInterleave => 0x11
  | .drawTiming => 0x20
  | .drawFinders => 0x21
  | .drawAlignment => 0x22
  | .drawFormat _ => 0x23
  | .drawVersion => 0x24
  | .drawFunctionPatterns => 0x2F
  | .drawCodewords => 0x30
  | .applyMask _ => 0x40
  | .penalty => 0x41
  | .finalize _ => 0x42
  | .encodeSymbol _ => 0x50
  | .getModule _ _ => 0x60

/-- The A field of a command (R113). -/
def aOperand : Instr → BitVec 12
  | .gfMul x _ => x.setWidth 12
  | .rsDivisor degree => BitVec.ofNat 12 degree
  | .rsRemainder off _ => BitVec.ofNat 12 off
  | .config version _ => BitVec.ofNat 12 version
  | .eccInterleave => 0
  | .drawTiming => 0
  | .drawFinders => 0
  | .drawAlignment => 0
  | .drawFormat m => BitVec.ofInt 12 m
  | .drawVersion => 0
  | .drawFunctionPatterns => 0
  | .drawCodewords => 0
  | .applyMask m => BitVec.ofInt 12 m
  | .penalty => 0
  | .finalize m => BitVec.ofInt 12 m
  | .encodeSymbol m => BitVec.ofInt 12 m
  | .getModule x _ => BitVec.ofInt 12 x

/-- The B field of a command (R113). -/
def bOperand : Instr → BitVec 12
  | .gfMul _ y => y.setWidth 12
  | .rsDivisor _ => 0
  | .rsRemainder _ len => BitVec.ofNat 12 len
  | .config _ ecl => BitVec.ofNat 12 ecl.ordinal
  | .eccInterleave => 0
  | .drawTiming => 0
  | .drawFinders => 0
  | .drawAlignment => 0
  | .drawFormat _ => 0
  | .drawVersion => 0
  | .drawFunctionPatterns => 0
  | .drawCodewords => 0
  | .applyMask _ => 0
  | .penalty => 0
  | .finalize _ => 0
  | .encodeSymbol _ => 0
  | .getModule _ y => BitVec.ofInt 12 y

/-- The command word of a well-formed command (R118). -/
def encode (i : Instr) : Word := packWord (opcodeOf i) (aOperand i) (bOperand i)

end Sys2Proof
end

