-- ==== Sys2Proof/Config.lean ====
section
/-! DEFINITION. What an implementation of QRENC fixes: the fixed sizes of R8 and the parameters it leaves OPEN. -/
namespace Sys2Proof

/-- N3_FLANK_RULE (R257): the two readings of the N3 flank condition. -/
inductive FlankRule where
  | perSide
  | bothSides
deriving DecidableEq, Repr

/-- N4_RULE (R259): the two readings of the N4 step count at exact multiples of 5 %. -/
inductive ImbalanceRule where
  | ceilMinusOne
  | floor
deriving DecidableEq, Repr

/-- The two OPEN parameters with a default (R8). They stand in `State.params`, so that a statement about every state holds
for either reading (log 4). -/
structure Params where
  flankRule : FlankRule
  imbalanceRule : ImbalanceRule
deriving DecidableEq, Repr

/-- The defaults of R8: PER_SIDE and CEIL_MINUS_ONE. -/
def Params.default : Params := { flankRule := .perSide, imbalanceRule := .ceilMinusOne }

namespace Config

/-- QRENC_BASE (R80): the host bus address of offset 0, left OPEN by the spec. No body: nothing can depend on its value. -/
opaque qrencBase : Nat

/-- The side of M and F (R8, R55): SIZE(40). -/
abbrev gridSide : Nat := 177

/-- The length of DATA (R8, R53). -/
abbrev dataBytes : Nat := 2956

/-- The length of the CW array, with the two bytes that fill its last word (R54). -/
abbrev cwArrayBytes : Nat := 3708

/-- The length of DIV and of REM (R8). -/
abbrev rsArrayBytes : Nat := 256

end Config
end Sys2Proof
end

