-- ==== Sys2Proof/Machine/State.lean ====
section
/-! DEFINITION. The architectural state of QRENC (R32, R60), the reasons a step stops, and the state after reset (R340). -/
namespace Sys2Proof.Machine

/-- STATUS.PHASE (R33): the position in the construction state machine. Value 7 is never held. -/
inductive Phase where
  | idle
  | configured
  | fixed
  | ecc
  | data
  | trial
  | final
deriving DecidableEq, Repr

/-- STATUS.ERR (R311). `ok` is code 0; `inputEncodingError` is the reserved code 6, which no command raises (R6). -/
inductive ErrCode where
  | ok
  | illegalCommand
  | rangeError
  | capacityExceeded
  | sequenceError
  | lengthMismatch
  | inputEncodingError
deriving DecidableEq, Repr

/-- A 177 × 177 array of Booleans (R55, R56), one bit a cell: cell (x, y) is bit 177·y + x (log 7). -/
abbrev Grid := BitVec (177 * 177)

/-- The byte arrays of the host offset space (R32): the listed (offset, byte) pairs, in the canonical form of
`Memory.wf`. What an offset that is not listed reads as is `Memory.unlisted`. -/
abbrev Memory := List Host.Cell

/-- An event from outside the command engine: a host access (R90), the host's POLL (R119), or the platform's reset
input (R340). `n` is the access width in bytes; a write of one byte writes `v[7:0]`. -/
inductive Input where
  | read (off n : Nat)
  | write (off n : Nat) (v : Word)
  | poll
  | reset
deriving DecidableEq, Repr

/-- The two agents of R7. -/
inductive Agent where
  | host
  | engine
deriving DecidableEq, Repr

/-- The model faults of R319: host actions, and reads of never-written DATA, whose hardware result is not defined. All
are safe: the model stops where the hardware goes on. -/
inductive Fault where
  /-- An access to an unmapped offset, of a wrong width, or misaligned (R84). Raised by `hostRead` and `hostWrite`; safe. -/
  | hostAccessError
  /-- A host access other than a STATUS read while BUSY = 1 (R347). Raised by `hostRead` and `hostWrite`; safe. -/
  | hostProtocolViolation
  /-- A read of a DATA byte whose written bit is clear (R89). Raised by `hostRead` and by the commands RS_REMAINDER,
  ECC_INTERLEAVE and ENCODE; safe. -/
  | unwrittenDataRead
  /-- More than one host agent was launched (R97). Raised by `step`; safe. -/
  | twoHosts
deriving DecidableEq, Repr

/-- The reasons to refuse an instruction. -/
inductive Refusal where
  /-- The instruction has no meaning in this model yet. Raised by no arm of `exec`; safe. -/
  | notModelled (mnemonic : String)
deriving DecidableEq, Repr

/-- The state of QRENC (R60): the registers of R32, the STATUS fields of R34, the arrays, M, F and PEND. The last five
fields are the model's own. STATUS.BUSY is the view `State.busy` of `pend` (R57, log 8). -/
structure State where
  /-- STATUS.ERR (R34) -/
  err : ErrCode
  /-- STATUS.PHASE (R33) -/
  phase : Phase
  /-- STATUS.FUNC_DONE (R34): bit 0 timing, 1 finders, 2 alignment, 3 format, 4 version (R200) -/
  funcDone : BitVec 5
  /-- STATUS.TRIAL (R34): `none` is 0xF -/
  trial : Option (Fin 8)
  /-- RESULT (R36) -/
  result : Word
  /-- VERSION (R37) -/
  version : BitVec 6
  /-- ECL (R38) -/
  ecl : Ecl
  /-- SIZE (R39) -/
  size : BitVec 8
  /-- MASK (R40): `none` is 0xF -/
  mask : Option (Fin 8)
  /-- DATA_LEN (R41) -/
  dataLen : BitVec 12
  /-- NDC (R42) -/
  ndc : BitVec 12
  /-- NRC (R43) -/
  nrc : BitVec 12
  /-- NBLK (R44) -/
  nblk : BitVec 7
  /-- ECCLEN (R45) -/
  ecclen : BitVec 5
  /-- NSHORT (R46) -/
  nshort : BitVec 7
  /-- SBLEN (R47) -/
  sblen : BitVec 8
  /-- DEG (R48) -/
  deg : BitVec 8
  /-- BEST_PENALTY (R49) -/
  bestPenalty : Word
  /-- PSCORE[0..7] (R50) -/
  pscore : Vector Word 8
  /-- DIV, REM, DATA with its written bits, and CW (R51 to R54, R61) -/
  mem : Memory
  /-- M (R55) -/
  gridM : Grid
  /-- F (R56) -/
  gridF : Grid
  /-- PEND (R57) -/
  pend : Option Word
  /-- The OPEN parameters N3_FLANK_RULE and N4_RULE (log 4); nothing changes them -/
  params : Params
  /-- How many host agents were launched (R97, log 19) -/
  hosts : Nat
  /-- The host's accesses and the platform's resets to come, oldest first (log 1) -/
  inputs : List Input
  /-- Which agent moves next (log 2) -/
  sched : List Agent
  /-- The values returned by the host's reads, newest first (log 3) -/
  readLog : List Word
deriving DecidableEq, Repr

/-- The machine right after reset (R340). -/
def State.reset : State where
  err := .ok
  phase := .idle
  funcDone := 0
  trial := none
  result := 0
  version := 0
  ecl := .low
  size := 0
  mask := none
  dataLen := 0
  ndc := 0
  nrc := 0
  nblk := 0
  ecclen := 0
  nshort := 0
  sblen := 0
  deg := 0
  bestPenalty := 0
  pscore := Vector.replicate 8 0
  mem := []
  gridM := 0
  gridF := 0
  pend := none
  params := Params.default
  hosts := 1
  inputs := []
  sched := []
  readLog := []

end Sys2Proof.Machine
end

