-- ==== Sys2Proof/Machine/Flags.lean ====
section
/-! DEFINITION. The STATUS register (R34) and the phase conditions that commands test (R33). -/
namespace Sys2Proof.Machine

/-- The value of STATUS.PHASE (R33). -/
def Phase.code : Phase → Nat
  | .idle => 0
  | .configured => 1
  | .fixed => 2
  | .ecc => 3
  | .data => 4
  | .trial => 5
  | .final => 6

/-- The value of STATUS.ERR (R311). -/
def ErrCode.code : ErrCode → Nat
  | .ok => 0
  | .illegalCommand => 1
  | .rangeError => 2
  | .capacityExceeded => 3
  | .sequenceError => 4
  | .lengthMismatch => 5
  | .inputEncodingError => 6

/-- The 4-bit value of a mask index or of "none" (R34 TRIAL, R40 MASK). -/
def maskCode : Option (Fin 8) → Nat
  | none => 0xF
  | some m => m.val

/-- STATUS.BUSY: 1 exactly when PEND is not empty (R57). -/
def State.busy (s : State) : Bool := s.pend.isSome

/-- The STATUS register (R34): BUSY [0], ERR [7:4], PHASE [10:8], FUNC_DONE [15:11], TRIAL [19:16], every other bit 0. -/
def statusWord (s : State) : Word :=
  BitVec.ofNat 32 s.busy.toNat ||| (BitVec.ofNat 32 s.err.code <<< 4) ||| (BitVec.ofNat 32 s.phase.code <<< 8)
    ||| (s.funcDone.setWidth 32 <<< 11) ||| (BitVec.ofNat 32 (maskCode s.trial) <<< 16)

/-- PHASE = 1 and FUNC_DONE = `done`: the condition of the function-pattern draws and of ENCODE (R33, R200). -/
def State.drawsDone (s : State) (done : BitVec 5) : Bool := s.phase == .configured && s.funcDone == done

/-- FUNC_DONE with bit `i` set (R200). -/
def State.setDrawDone (s : State) (i : Nat) : State := { s with funcDone := s.funcDone ||| (1#5 <<< i) }

/-- When DRAW_FORMAT is legal (R33, R210). -/
def State.formatLegal (s : State) : Bool := s.drawsDone 0b00111 || s.phase == .data || s.phase == .trial

/-- When APPLY_MASK passes its first phase check (R252). -/
def State.maskLegal (s : State) : Bool := s.phase == .data || s.phase == .trial

end Sys2Proof.Machine
end

