-- ==== Sys2Proof/Machine/Operands.lean ====
section
/-! DEFINITION. How the command rules read their operands: the range conditions of R113 on s12 masks and coordinates. -/
namespace Sys2Proof.Machine

/-- A mask operand with 0 ≤ m ≤ 7 (DRAW_FORMAT, APPLY_MASK); any other is a RangeError (R113). -/
def maskIndex (m : Int) : Option (Fin 8) :=
  if h : 0 ≤ m ∧ m ≤ 7 then some ⟨m.toNat, by omega⟩ else none

/-- The mask operand of FINALIZE and ENCODE: automatic selection or a fixed mask (R263). -/
inductive MaskChoice where
  | auto
  | fixed (m : Fin 8)
deriving DecidableEq, Repr

/-- A mask operand with −1 ≤ m ≤ 7 (FINALIZE, ENCODE); any other is a RangeError (R113). −1 selects automatically. -/
def maskChoice (m : Int) : Option MaskChoice :=
  if m = -1 then some .auto else (maskIndex m).map .fixed

/-- A coordinate inside [0, SIZE), as an index (R291). -/
def coordinate (size : Nat) (v : Int) : Option Nat := if 0 ≤ v ∧ v < size then some v.toNat else none

end Sys2Proof.Machine
end

