-- ==== Sys2Proof/Machine/Ops.lean ====
section
/-! DEFINITION. The operations every command shares: the byte arrays, the grids, and the two ways a command ends
(COMPLETE and raise). -/
namespace Sys2Proof.Machine

/-! ### The byte arrays of the offset space (R32) -/

/-- The first offset of DIV (R51). -/
def divBase : Nat := 0x0100
/-- The first offset of REM (R52). -/
def remBase : Nat := 0x0200
/-- The first offset of DATA (R53). -/
def dataBase : Nat := 0x1000
/-- The first offset of CW (R54). -/
def cwBase : Nat := 0x2000

/-- `off` is a byte of DIV. -/
def inDiv (off : Nat) : Bool := decide (divBase ≤ off ∧ off < divBase + Config.rsArrayBytes)
/-- `off` is a byte of REM. -/
def inRem (off : Nat) : Bool := decide (remBase ≤ off ∧ off < remBase + Config.rsArrayBytes)
/-- `off` is a byte of DATA. -/
def inData (off : Nat) : Bool := decide (dataBase ≤ off ∧ off < dataBase + Config.dataBytes)
/-- `off` is a byte of CW. -/
def inCw (off : Nat) : Bool := decide (cwBase ≤ off ∧ off < cwBase + Config.cwArrayBytes)

/-- `off` is a byte of some array: one of the last four rows of R32's table. -/
def inArray (off : Nat) : Bool := inDiv off || inRem off || inData off || inCw off

namespace Memory

/-- What an offset that is not listed reads as: 0 in DIV, REM and CW (their reset contents, R340), no value in DATA
(the written bit is clear, R61) and no value where no array is. -/
def unlisted (off : Nat) : Option Byte := if inDiv off || inRem off || inCw off then some 0 else none

/-- The byte at `off`, or no value (R61). -/
def read : Memory → Nat → Option Byte
  | [], off => unlisted off
  | (a, b) :: rest, off => if a = off then some b else read rest off

/-- The cells for `bytes` laid at `off` and up: only offsets that are array bytes, and no cell that says what an
unlisted offset reads as. -/
def cellsAt : Nat → List Byte → Memory
  | _, [] => []
  | off, b :: bs =>
    if inArray off && unlisted off != some b then (off, b) :: cellsAt (off + 1) bs else cellsAt (off + 1) bs

/-- Write `bytes` to the offsets `off`, `off + 1`, … A written DATA byte gets its written bit set (R61). -/
def store (m : Memory) (off : Nat) (bytes : List Byte) : Memory :=
  m.filter (fun c => decide (c.1 < off)) ++ cellsAt off bytes ++ m.filter (fun c => decide (off + bytes.length ≤ c.1))

/-- The `n` bytes from `off` up, or no value if one of them has none. -/
def readBytes (m : Memory) (off : Nat) : Nat → Option (List Byte)
  | 0 => some []
  | n + 1 =>
    match read m off, readBytes m (off + 1) n with
    | some b, some bs => some (b :: bs)
    | _, _ => none

/-- The `n` bytes from `off` up of an array that always has values (DIV, REM, CW). -/
def bytes (m : Memory) (off n : Nat) : List Byte := (List.range n).map fun k => (read m (off + k)).getD 0

/-- The canonical form: offsets strictly rising, every offset a byte of an array, no cell that says what an unlisted
offset reads as. -/
def wf : Memory → Bool
  | [] => true
  | (a, b) :: rest => inArray a && unlisted a != some b && rest.all (fun c => decide (a < c.1)) && wf rest

end Memory

/-- The 256 bytes of DIV or REM from their leading bytes: the rest is 0 (R147, R148). -/
def pad256 (bs : List Byte) : List Byte := (bs ++ List.replicate (256 - bs.length) 0).take 256

/-! ### The grids (R11, R55, R56) -/

namespace Grid

/-- Cell (x, y): column x, row y (R11). Light outside the array. -/
def get (g : Grid) (x y : Nat) : Bool := decide (x < 177) && (decide (y < 177) && g.getLsbD (177 * y + x))

/-- The grid whose one dark cell is (x, y). -/
def cell (x y : Nat) : Grid := 1#(177 * 177) <<< (177 * y + x)

/-- Write cell (x, y); outside the array nothing is written. -/
def set (g : Grid) (x y : Nat) (d : Bool) : Grid :=
  if x < 177 ∧ y < 177 then (if d then g ||| cell x y else (g ||| cell x y) ^^^ cell x y) else g

/-- Every cell false (R176, R263). -/
def clear : Grid := 0

/-- The bits `f 0` to `f (n - 1)` as a number, `f 0` in bit 0. -/
def packBits (f : Nat → Bool) : Nat → Nat
  | 0 => 0
  | n + 1 => packBits f n ||| ((f n).toNat <<< n)

/-- `n` rows of `w` cells, row `y` from bit 177·y up. -/
def packRows (f : Nat → Nat → Bool) (w : Nat) : Nat → Nat
  | 0 => 0
  | n + 1 => packRows f w n ||| (packBits (fun x => f x n) w <<< (177 * n))

/-- The grid that is dark exactly where `f x y` holds, for x, y < `size` (at most 177). -/
def ofCells (size : Nat) (f : Nat → Nat → Bool) : Grid :=
  BitVec.ofNat _ (packRows f (min size 177) (min size 177))

/-- Row `y` of the symbol, from the left (R253). -/
def row (g : Grid) (size y : Nat) : List Bool := (List.range size).map fun x => get g x y

/-- Column `x` of the symbol, from the top (R253). -/
def column (g : Grid) (size x : Nat) : List Bool := (List.range size).map fun y => get g x y

end Grid

/-- One `setFunctionModule(x, y, d)` (R11). -/
structure ModuleWrite where
  x : Nat
  y : Nat
  d : Bool
deriving DecidableEq, Repr

/-- M and F together. -/
structure Canvas where
  m : Grid
  f : Grid
deriving DecidableEq, Repr

/-- R11: `setFunctionModule(x, y, d)` means `M[y][x] <- d; F[y][x] <- true`. -/
def setFunctionModule (c : Canvas) (w : ModuleWrite) : Canvas :=
  { m := Grid.set c.m w.x w.y w.d, f := Grid.set c.f w.x w.y true }

/-- The writes of `ws`, in order: a later one overwrites an earlier one at a shared cell (R200). -/
def drawAll (ws : List ModuleWrite) (c : Canvas) : Canvas := ws.foldl setFunctionModule c

/-- M and F of a state. -/
def State.canvas (s : State) : Canvas := { m := s.gridM, f := s.gridF }

/-- The state with M and F replaced. -/
def State.withCanvas (s : State) (c : Canvas) : State := { s with gridM := c.m, gridF := c.f }

/-! ### How a command ends (R13, R14) -/

/-- COMPLETE (R14): `STATUS.ERR <- 0; STATUS.BUSY <- 0`. BUSY is PEND's view, and the engine's step empties PEND (R318). -/
def complete (s : State) : Host.Outcome State Fault Refusal := .next { s with err := .ok, pend := none }

/-- `raise E` (R13, R313): the one shared way of taking an error. `STATUS.ERR <- code(E); STATUS.BUSY <- 0`; nothing
else changes, and there is no handler (R316). -/
def raise (e : ErrCode) (s : State) : Host.Outcome State Fault Refusal := .next { s with err := e, pend := none }

end Sys2Proof.Machine
end

