-- ==== Sys2Proof/Machine/ReedSolomon.lean ====
section
/-! DEFINITION. GF(256), generator polynomials and remainders, and their three commands (40_gf256_reed_solomon.md). -/
namespace Sys2Proof.Machine

/-- One iteration of `gfmul` (R141): multiply by x and reduce, then add `x` when the next bit of y is 1. -/
def gfStep (x : Byte) (z : BitVec 9) (yBit : Bool) : BitVec 9 :=
  let doubled := (z <<< 1) ^^^ (if z.getLsbD 7 then 0x11D#9 else 0#9)
  if yBit then doubled ^^^ x.setWidth 9 else doubled

/-- `gfmul(x, y)` (R141): eight iterations, from the most significant bit of `y` down. -/
def gfmul (x y : Byte) : Byte :=
  (([7, 6, 5, 4, 3, 2, 1, 0].map y.getLsbD).foldl (gfStep x) 0#9).setWidth 8

/-- The inner loop of `divisor` (R143): multiply the polynomial with the implicit leading 1 by (x ⊕ root). `r[j+1]` is read
before it is updated. -/
def mulRoot (root : Byte) : List Byte → List Byte
  | [] => []
  | [a] => [gfmul a root]
  | a :: b :: rest => (gfmul a root ^^^ b) :: mulRoot root (b :: rest)

/-- The outer loop of `divisor` (R143): `n` more factors, the next root being `root`. -/
def divisorLoop : Nat → Byte → List Byte → List Byte
  | 0, _, r => r
  | n + 1, root, r => divisorLoop n (gfmul root 2) (mulRoot root r)

/-- The start of `divisor` (R143): all 0 but the last coefficient, which is 1. -/
def divisorStart : Nat → List Byte
  | 0 => []
  | d + 1 => List.replicate d 0 ++ [1]

/-- `divisor(d)` (R143): the `d` trailing coefficients of Π (x ⊕ 2^i), i < d, highest power first. -/
def divisor (d : Nat) : List Byte := divisorLoop d 1 (divisorStart d)

/-- One data byte of `remainder` (R144): shift the register up and subtract factor · divisor. -/
def remainderStep (div r : List Byte) (b : Byte) : List Byte :=
  let factor := b ^^^ r.headD 0
  (r.tail ++ [0]).zipWith (fun c g => c ^^^ gfmul g factor) div

/-- `remainder(data, div)` (R144), highest power first. -/
def remainder (data div : List Byte) : List Byte :=
  data.foldl (remainderStep div) (List.replicate div.length 0)

/-- The divisor held in DIV: `DIV[0..DEG−1]` (R51). -/
def State.divisorBytes (s : State) : List Byte := s.mem.bytes divBase s.deg.toNat

/-- DIV and DEG take the divisor of degree `degree` (R147, R180). -/
def loadDivisor (degree : Nat) (s : State) : State :=
  { s with mem := s.mem.store divBase (pad256 (divisor degree)), deg := BitVec.ofNat 8 degree }

/-- REM takes a remainder, the rest of it 0 (R148, R180). -/
def loadRemainder (r : List Byte) (s : State) : State := { s with mem := s.mem.store remBase (pad256 r) }

/-- The bytes `DATA[off .. off+len−1]`, or no value if one was never written (R89). -/
def State.dataBytes (s : State) (off len : Nat) : Option (List Byte) := s.mem.readBytes (dataBase + off) len

/-- GF_MUL x, y (R146). -/
def execGfMul (x y : Byte) (s : State) : Host.Outcome State Fault Refusal :=
  complete { s with result := (gfmul x y).setWidth 32 }

/-- RS_DIVISOR degree (R147). -/
def execRsDivisor (degree : Nat) (s : State) : Host.Outcome State Fault Refusal :=
  if degree = 0 then raise .rangeError s else complete (loadDivisor degree s)

/-- RS_REMAINDER off, len (R148). -/
def execRsRemainder (off len : Nat) (s : State) : Host.Outcome State Fault Refusal :=
  if s.deg = 0 then raise .sequenceError s
  else if Config.dataBytes < off + len then raise .rangeError s
  else
    match s.dataBytes off len with
    | none => .fault .unwrittenDataRead
    | some data => complete (loadRemainder (remainder data s.divisorBytes) s)

end Sys2Proof.Machine
end

