-- ==== Sys2Proof/Machine/Symbol.lean ====
section
/-! DEFINITION. Symbol configuration, block split and interleave, and the commands CONFIG and ECC_INTERLEAVE
(41_config_and_interleave.md). -/
namespace Sys2Proof.Machine

/-! ### Capacity (R171 to R173, R177) -/

/-- The size of a symbol of version `v` (R8, R39). -/
def symbolSize (v : Nat) : Nat := 4 * v + 17

/-- `rawDataModules(v)`, 1 ≤ v ≤ 40 (R171). -/
def rawDataModules (v : Nat) : Nat :=
  let r := (16 * v + 128) * v + 64
  let na := v / 7 + 2
  if v < 2 then r
  else if v < 7 then r - ((25 * na - 10) * na - 55)
  else r - ((25 * na - 10) * na - 55) - 36

/-- ECC_PER_BLOCK[e] for v = 1 to 40 (R172). -/
def eccPerBlockRow : Ecl → List Nat
  | .low =>
    [7, 10, 15, 20, 26, 18, 20, 24, 30, 18] ++
    [20, 24, 26, 30, 22, 24, 28, 30, 28, 28] ++
    [28, 28, 30, 30, 26, 28, 30, 30, 30, 30] ++
    [30, 30, 30, 30, 30, 30, 30, 30, 30, 30]
  | .medium =>
    [10, 16, 26, 18, 24, 16, 18, 22, 22, 26] ++
    [30, 22, 22, 24, 24, 28, 28, 26, 26, 26] ++
    [26, 28, 28, 28, 28, 28, 28, 28, 28, 28] ++
    [28, 28, 28, 28, 28, 28, 28, 28, 28, 28]
  | .quartile =>
    [13, 22, 18, 26, 18, 24, 18, 22, 20, 24] ++
    [28, 26, 24, 20, 30, 24, 28, 28, 26, 30] ++
    [28, 30, 30, 30, 30, 28, 30, 30, 30, 30] ++
    [30, 30, 30, 30, 30, 30, 30, 30, 30, 30]
  | .high =>
    [17, 28, 22, 16, 22, 28, 26, 26, 24, 28] ++
    [24, 28, 22, 24, 24, 30, 28, 28, 26, 28] ++
    [30, 24, 30, 30, 30, 30, 30, 30, 30, 30] ++
    [30, 30, 30, 30, 30, 30, 30, 30, 30, 30]

/-- NUM_BLOCKS[e] for v = 1 to 40 (R172). -/
def numBlocksRow : Ecl → List Nat
  | .low =>
    [1, 1, 1, 1, 1, 2, 2, 2, 2, 4] ++
    [4, 4, 4, 4, 6, 6, 6, 6, 7, 8] ++
    [8, 9, 9, 10, 12, 12, 12, 13, 14, 15] ++
    [16, 17, 18, 19, 19, 20, 21, 22, 24, 25]
  | .medium =>
    [1, 1, 1, 2, 2, 4, 4, 4, 5, 5] ++
    [5, 8, 9, 9, 10, 10, 11, 13, 14, 16] ++
    [17, 17, 18, 20, 21, 23, 25, 26, 28, 29] ++
    [31, 33, 35, 37, 38, 40, 43, 45, 47, 49]
  | .quartile =>
    [1, 1, 2, 2, 4, 4, 6, 6, 8, 8] ++
    [8, 10, 12, 16, 12, 17, 16, 18, 21, 20] ++
    [23, 23, 25, 27, 29, 34, 34, 35, 38, 40] ++
    [43, 45, 48, 51, 53, 56, 59, 62, 65, 68]
  | .high =>
    [1, 1, 2, 4, 4, 4, 5, 6, 8, 8] ++
    [11, 11, 16, 16, 18, 16, 19, 21, 25, 25] ++
    [25, 34, 30, 32, 35, 37, 40, 42, 45, 48] ++
    [51, 54, 57, 60, 63, 66, 70, 74, 77, 81]

/-- ECC_PER_BLOCK[e][v] (R172). -/
def eccPerBlock (e : Ecl) (v : Nat) : Nat := (eccPerBlockRow e).getD (v - 1) 0

/-- NUM_BLOCKS[e][v] (R172). -/
def numBlocks (e : Ecl) (v : Nat) : Nat := (numBlocksRow e).getD (v - 1) 0

/-- NRC(v) (R171): the raw codewords of a version. -/
def rawCodewords (v : Nat) : Nat := rawDataModules v / 8

/-- NDC(v, e) (R173): the data codewords. -/
def dataCodewords (v : Nat) (e : Ecl) : Nat := rawCodewords v - eccPerBlock e v * numBlocks e v

/-- NSHORT (R177): the short blocks. -/
def shortBlocks (v : Nat) (e : Ecl) : Nat := numBlocks e v - rawCodewords v % numBlocks e v

/-- SBLEN (R177): the length of a short block with its ECC. -/
def shortBlockLength (v : Nat) (e : Ecl) : Nat := rawCodewords v / numBlocks e v

/-! ### CONFIG (R176) -/

/-- The state of CONFIG's success (R176), before COMPLETE. -/
def configure (v : Nat) (e : Ecl) (s : State) : State :=
  { s with
    version := BitVec.ofNat 6 v
    ecl := e
    size := BitVec.ofNat 8 (symbolSize v)
    nrc := BitVec.ofNat 12 (rawCodewords v)
    nblk := BitVec.ofNat 7 (numBlocks e v)
    ecclen := BitVec.ofNat 5 (eccPerBlock e v)
    ndc := BitVec.ofNat 12 (dataCodewords v e)
    nshort := BitVec.ofNat 7 (shortBlocks v e)
    sblen := BitVec.ofNat 8 (shortBlockLength v e)
    gridM := Grid.clear
    gridF := Grid.clear
    mem := s.mem.store cwBase (List.replicate Config.cwArrayBytes 0)
    funcDone := 0
    trial := none
    mask := none
    pscore := Vector.replicate 8 0
    bestPenalty := 0
    phase := .configured }

/-- CONFIG version, ecl (R176). -/
def execConfig (version : Nat) (ecl : Ecl) (s : State) : Host.Outcome State Fault Refusal :=
  if version < 1 ∨ 40 < version then raise .rangeError s else complete (configure version ecl s)

/-! ### Block split and interleave (R177, R179) -/

/-- The block layout of R177. -/
structure Layout where
  nblk : Nat
  ecclen : Nat
  nshort : Nat
  sblen : Nat
deriving DecidableEq, Repr

/-- The layout the registers NBLK, ECCLEN, NSHORT and SBLEN hold. -/
def State.layout (s : State) : Layout :=
  { nblk := s.nblk.toNat, ecclen := s.ecclen.toNat, nshort := s.nshort.toNat, sblen := s.sblen.toNat }

/-- The data bytes of a short block, SBLEN − ECCLEN: also the index of its pad byte (R177, R179). -/
def Layout.shortData (l : Layout) : Nat := l.sblen - l.ecclen

/-- `blk_i` from its data codewords (R177): data, a pad byte in a short block, ECC. -/
def makeBlock (l : Layout) (g : List Byte) (i : Nat) (dat : List Byte) : List Byte :=
  dat ++ (if i < l.nshort then [0] else []) ++ remainder dat g

/-- The loop of `splitBlocks` (R177): `n` more blocks, the next one being block `i`. -/
def splitFrom (l : Layout) (g : List Byte) : Nat → Nat → List Byte → List (List Byte)
  | 0, _, _ => []
  | n + 1, i, data =>
    let len := l.shortData + (if i < l.nshort then 0 else 1)
    makeBlock l g i (data.take len) :: splitFrom l g n (i + 1) (data.drop len)

/-- `splitBlocks(data)` (R177). -/
def splitBlocks (l : Layout) (data : List Byte) : List (List Byte) :=
  splitFrom l (divisor l.ecclen) l.nblk 0 data

/-- Column `i` of the interleave (R179): byte `i` of each block, without the pad byte of a short block. -/
def interleaveColumn (l : Layout) (blocks : List (List Byte)) (i : Nat) : List Byte :=
  blocks.zipIdx.filterMap fun p => if i ≠ l.shortData ∨ l.nshort ≤ p.2 then some (p.1.getD i 0) else none

/-- `interleave(blk)` (R179). -/
def interleave (l : Layout) (blocks : List (List Byte)) : List Byte :=
  (List.range (l.sblen + 1)).flatMap (interleaveColumn l blocks)

/-- The ECC of the last block (R180). -/
def lastEcc (l : Layout) (blocks : List (List Byte)) : List Byte :=
  (blocks.getLast?.getD []).drop (l.shortData + 1)

/-- The body of ECC_INTERLEAVE (R180) on the data codewords: CW, DIV, DEG and REM. -/
def eccBody (data : List Byte) (s : State) : State :=
  let blocks := splitBlocks s.layout data
  let s := { s with mem := s.mem.store cwBase ((interleave s.layout blocks).take s.nrc.toNat) }
  loadRemainder (lastEcc s.layout blocks) (loadDivisor s.ecclen.toNat s)

/-- The length checks of R178: DATA_LEN against NDC. -/
def lengthError (s : State) : Option ErrCode :=
  if s.ndc.toNat < s.dataLen.toNat then some .capacityExceeded
  else if s.dataLen.toNat < s.ndc.toNat then some .lengthMismatch
  else none

/-- Run `k` on DATA[0..NDC−1] after the length checks and the written check of R178 and R312 (steps 5 to 7). -/
def withDataCodewords (s : State) (k : List Byte → State) : Host.Outcome State Fault Refusal :=
  match lengthError s with
  | some e => raise e s
  | none =>
    match s.dataBytes 0 s.ndc.toNat with
    | none => .fault .unwrittenDataRead
    | some data => complete (k data)

/-- ECC_INTERLEAVE (R180). -/
def execEccInterleave (s : State) : Host.Outcome State Fault Refusal :=
  if s.phase = .fixed then withDataCodewords s (fun data => { eccBody data s with phase := .ecc })
  else raise .sequenceError s

end Sys2Proof.Machine
end

