-- ==== Sys2Proof/Machine/Patterns.lean ====
section
/-! DEFINITION. The function patterns and their six commands (42_function_patterns.md). A draw is the list of its
`setFunctionModule` calls in order. -/
namespace Sys2Proof.Machine

/-! ### Timing (R201) -/

/-- `drawTiming()` (R201). -/
def timingWrites (size : Nat) : List ModuleWrite :=
  (List.range size).flatMap fun i => [⟨6, i, i % 2 == 0⟩, ⟨i, 6, i % 2 == 0⟩]

/-! ### Finders (R203, R204) -/

/-- The Chebyshev distance of an offset (R203). -/
def chebyshev (dx dy : Int) : Nat := max dx.natAbs dy.natAbs

/-- The integers from −r to r. -/
def offsets (r : Nat) : List Int := (List.range (2 * r + 1)).map fun (k : Nat) => (k : Int) - (r : Int)

/-- The writes of a square pattern of radius `r` centred at (cx, cy), `dark` giving the colour by distance; cells outside
the matrix are skipped (R203). -/
def squareWrites (size r : Nat) (dark : Nat → Bool) (cx cy : Int) : List ModuleWrite :=
  (offsets r).flatMap fun dy => (offsets r).filterMap fun dx =>
    if 0 ≤ cx + dx ∧ cx + dx < size ∧ 0 ≤ cy + dy ∧ cy + dy < size then
      some ⟨(cx + dx).toNat, (cy + dy).toNat, dark (chebyshev dx dy)⟩
    else none

/-- `drawFinder(cx, cy)` (R203): dark unless the distance is 2 or 4. -/
def finderWrites (size : Nat) (cx cy : Int) : List ModuleWrite :=
  squareWrites size 4 (fun d => d != 2 && d != 4) cx cy

/-- The three finders of R204. -/
def findersWrites (size : Nat) : List ModuleWrite :=
  finderWrites size 3 3 ++ finderWrites size ((size : Int) - 4) 3 ++ finderWrites size 3 ((size : Int) - 4)

/-! ### Alignment (R205 to R207) -/

/-- The spacing of R205. -/
def alignStep (v : Nat) : Nat :=
  let na := v / 7 + 2
  if v = 32 then 26 else (v * 4 + na * 2 + 1) / (na * 2 - 2) * 2

/-- The loop of R205: `n` more positions, `pos` the next, each inserted right after the leading 6 of `6 :: acc`. -/
def alignLoop (step : Nat) : Nat → Nat → List Nat → List Nat
  | 0, _, acc => 6 :: acc
  | n + 1, pos, acc => alignLoop step n (pos - step) (pos :: acc)

/-- `alignPos(v)` (R205): the alignment centre coordinates. -/
def alignPos (v : Nat) : List Nat :=
  if v < 2 then [] else alignLoop (alignStep v) (v / 7 + 1) (symbolSize v - 7) []

/-- The centres drawn (R207): every pair of positions but the three finder corners. -/
def alignCentres (v : Nat) : List (Nat × Nat) :=
  let p := alignPos v
  let last := p.length - 1
  p.zipIdx.flatMap fun a => p.zipIdx.filterMap fun b =>
    if (a.2 = 0 ∧ b.2 = 0) ∨ (a.2 = 0 ∧ b.2 = last) ∨ (a.2 = last ∧ b.2 = 0) then none else some (a.1, b.1)

/-- `drawAlignment(cx, cy)` (R206): dark unless the distance is 1. -/
def alignmentWrites (size cx cy : Nat) : List ModuleWrite := squareWrites size 2 (fun d => d != 1) cx cy

/-- The loop of R207. -/
def alignmentsWrites (size v : Nat) : List ModuleWrite :=
  (alignCentres v).flatMap fun c => alignmentWrites size c.1 c.2

/-! ### Format information (R170, R208, R209) -/

/-- The format code FMT(e) (R170). -/
def Ecl.formatCode : Ecl → BitVec 15
  | .low => 1
  | .medium => 0
  | .quartile => 3
  | .high => 2

/-- One step of the BCH(15,5) remainder (R208). -/
def formatRemStep (rem : BitVec 15) : BitVec 15 := (rem <<< 1) ^^^ (if rem.getLsbD 9 then 0x537#15 else 0#15)

/-- The 5 data bits of a format word (R208). -/
def formatData (e : Ecl) (m : Fin 8) : BitVec 15 := (Ecl.formatCode e <<< 3) ||| BitVec.ofNat 15 m.val

/-- `formatBits(e, m)` (R208). -/
def formatBits (e : Ecl) (m : Fin 8) : BitVec 15 :=
  ((formatData e m <<< 10) ||| Nat.repeat formatRemStep 10 (formatData e m)) ^^^ 0x5412#15

/-- `drawFormat(m)` (R209) of the word `b`: two copies and the dark module. -/
def formatWrites (size : Nat) (b : BitVec 15) : List ModuleWrite :=
  ((List.range 6).map fun i => ⟨8, i, b.getLsbD i⟩) ++
  [⟨8, 7, b.getLsbD 6⟩, ⟨8, 8, b.getLsbD 7⟩, ⟨7, 8, b.getLsbD 8⟩] ++
  ((List.range 6).map fun k => ⟨14 - (k + 9), 8, b.getLsbD (k + 9)⟩) ++
  ((List.range 8).map fun i => ⟨size - 1 - i, 8, b.getLsbD i⟩) ++
  ((List.range 7).map fun k => ⟨8, size - 15 + (k + 8), b.getLsbD (k + 8)⟩) ++
  [⟨8, size - 8, true⟩]

/-! ### Version information (R211, R212) -/

/-- One step of the BCH(18,6) remainder (R211). -/
def versionRemStep (rem : BitVec 18) : BitVec 18 := (rem <<< 1) ^^^ (if rem.getLsbD 11 then 0x1F25#18 else 0#18)

/-- `versionBits(v)` (R211). -/
def versionBits (v : Nat) : BitVec 18 :=
  (BitVec.ofNat 18 v <<< 12) ||| Nat.repeat versionRemStep 12 (BitVec.ofNat 18 v)

/-- `drawVersion()` (R212): nothing below version 7. -/
def versionWrites (size v : Nat) : List ModuleWrite :=
  if v < 7 then []
  else (List.range 18).flatMap fun i =>
    [⟨size - 11 + i % 3, i / 3, (versionBits v).getLsbD i⟩, ⟨i / 3, size - 11 + i % 3, (versionBits v).getLsbD i⟩]

/-! ### The draws on a state -/

/-- Perform `ws` on M and F. -/
def State.draw (s : State) (ws : List ModuleWrite) : State := s.withCanvas (drawAll ws s.canvas)

/-- `drawTiming()` (R201). -/
def drawTiming (s : State) : State := s.draw (timingWrites s.size.toNat)

/-- The three `drawFinder` calls (R204). -/
def drawFinders (s : State) : State := s.draw (findersWrites s.size.toNat)

/-- The loop of R207. -/
def drawAlignments (s : State) : State := s.draw (alignmentsWrites s.size.toNat s.version.toNat)

/-- `drawFormat(m)` (R209). -/
def drawFormat (m : Fin 8) (s : State) : State := s.draw (formatWrites s.size.toNat (formatBits s.ecl m))

/-- `drawVersion()` (R212). -/
def drawVersion (s : State) : State := s.draw (versionWrites s.size.toNat s.version.toNat)

/-- The draws of DRAW_FUNCTION_PATTERNS (R214), with the placeholder format of mask 0. -/
def drawFunctionPatterns (s : State) : State :=
  drawVersion (drawFormat 0 (drawAlignments (drawFinders (drawTiming s))))

/-! ### The commands -/

/-- DRAW_TIMING (R202). -/
def execDrawTiming (s : State) : Host.Outcome State Fault Refusal :=
  if s.drawsDone 0b00000 then complete ((drawTiming s).setDrawDone 0) else raise .sequenceError s

/-- DRAW_FINDERS (R204). -/
def execDrawFinders (s : State) : Host.Outcome State Fault Refusal :=
  if s.drawsDone 0b00001 then complete ((drawFinders s).setDrawDone 1) else raise .sequenceError s

/-- DRAW_ALIGNMENT (R207). -/
def execDrawAlignment (s : State) : Host.Outcome State Fault Refusal :=
  if s.drawsDone 0b00011 then complete ((drawAlignments s).setDrawDone 2) else raise .sequenceError s

/-- DRAW_FORMAT m (R210): only in PHASE 1 does it set its FUNC_DONE bit. -/
def execDrawFormat (m : Int) (s : State) : Host.Outcome State Fault Refusal :=
  if s.formatLegal then
    match maskIndex m with
    | none => raise .rangeError s
    | some k => complete (if s.phase = .configured then (drawFormat k s).setDrawDone 3 else drawFormat k s)
  else raise .sequenceError s

/-- DRAW_VERSION (R213): ends the sequence and enters PHASE 2. -/
def execDrawVersion (s : State) : Host.Outcome State Fault Refusal :=
  if s.drawsDone 0b01111 then complete { (drawVersion s).setDrawDone 4 with phase := .fixed }
  else raise .sequenceError s

/-- DRAW_FUNCTION_PATTERNS (R214). -/
def execDrawFunctionPatterns (s : State) : Host.Outcome State Fault Refusal :=
  if s.drawsDone 0b00000 then complete { drawFunctionPatterns s with funcDone := 0b11111, phase := .fixed }
  else raise .sequenceError s

end Sys2Proof.Machine
end

