-- ==== Sys2Proof/Machine/Masking.lean ====
section
/-! DEFINITION. Masks, the penalty score and the commands APPLY_MASK, PENALTY and FINALIZE (44_masking_and_penalty.md). -/
namespace Sys2Proof.Machine

/-! ### Masks (R250, R251) -/

/-- `pred(m, x, y)` (R250). -/
def maskPred (m : Fin 8) (x y : Nat) : Bool :=
  match m.val with
  | 0 => (x + y) % 2 == 0
  | 1 => y % 2 == 0
  | 2 => x % 3 == 0
  | 3 => (x + y) % 3 == 0
  | 4 => (x / 3 + y / 2) % 2 == 0
  | 5 => x * y % 2 + x * y % 3 == 0
  | 6 => (x * y % 2 + x * y % 3) % 2 == 0
  | _ => ((x + y) % 2 + x * y % 3) % 2 == 0

/-- The cells that mask `m` flips (R251): data cells of the symbol where the predicate holds. -/
def maskCells (f : Grid) (size : Nat) (m : Fin 8) : Grid :=
  Grid.ofCells size fun x y => !f.get x y && maskPred m x y

/-- `applyMask(m)` (R251): XOR the predicate onto the data cells. -/
def applyMask (m : Fin 8) (s : State) : State :=
  { s with gridM := s.gridM ^^^ maskCells s.gridF s.size.toNat m }

/-- APPLY_MASK m (R252): applies in PHASE 4, undoes the same mask in PHASE 5. -/
def execApplyMask (m : Int) (s : State) : Host.Outcome State Fault Refusal :=
  if s.maskLegal then
    match maskIndex m with
    | none => raise .rangeError s
    | some k =>
      if s.phase = .trial ∧ s.trial ≠ some k then raise .sequenceError s
      else if s.phase = .data then complete { applyMask k s with phase := .trial, trial := some k }
      else complete { applyMask k s with phase := .data, trial := none }
  else raise .sequenceError s

/-! ### Penalty (R253 to R259) -/

/-- The rolling run-length history of R254, newest first. -/
structure History where
  h0 : Nat
  h1 : Nat
  h2 : Nat
  h3 : Nat
  h4 : Nat
  h5 : Nat
  h6 : Nat
deriving DecidableEq, Repr

/-- The empty history (R255). -/
def History.empty : History := ⟨0, 0, 0, 0, 0, 0, 0⟩

/-- `addHistory(run, h)` (R254): the first run of the line gets the light border before it. -/
def History.add (size : Nat) (h : History) (run : Nat) : History :=
  { h0 := if h.h0 = 0 then run + size else run, h1 := h.h0, h2 := h.h1, h3 := h.h2, h4 := h.h3, h5 := h.h4, h6 := h.h5 }

/-- `flankCount` (R257), under either reading of N3_FLANK_RULE. -/
def flankCount (rule : FlankRule) (core : Bool) (n a b : Nat) : Nat :=
  match rule with
  | .perSide =>
    (if core && decide (4 * n ≤ a ∧ n ≤ b) then 1 else 0) + (if core && decide (4 * n ≤ b ∧ n ≤ a) then 1 else 0)
  | .bothSides => if core && decide (4 * n ≤ a ∧ 4 * n ≤ b) then 1 else 0

/-- `countPatterns(h)` (R254). -/
def countPatterns (rule : FlankRule) (h : History) : Nat :=
  let n := h.h1
  flankCount rule (decide (0 < n ∧ h.h2 = n ∧ h.h3 = 3 * n ∧ h.h4 = n ∧ h.h5 = n)) n h.h0 h.h6

/-- `terminateAndCount(color, run, h)` (R254); `color` is true for dark. -/
def terminateAndCount (rule : FlankRule) (size : Nat) (color : Bool) (run : Nat) (h : History) : Nat :=
  if color then countPatterns rule ((h.add size run).add size (0 + size)) else countPatterns rule (h.add size (run + size))

/-- The variables of the scan of one line (R255). -/
structure LineScan where
  score : Nat
  color : Bool
  run : Nat
  history : History
deriving DecidableEq, Repr

/-- One cell of `lineScore` (R255). -/
def lineStep (rule : FlankRule) (size : Nat) (st : LineScan) (cell : Bool) : LineScan :=
  if cell = st.color then
    { st with
      run := st.run + 1
      score := st.score + (if st.run + 1 = 5 then 3 else if 5 < st.run + 1 then 1 else 0) }
  else
    let h := st.history.add size st.run
    { score := st.score + (if st.color then 0 else 40 * countPatterns rule h), color := cell, run := 1, history := h }

/-- `lineScore(line)` (R255). -/
def lineScore (rule : FlankRule) (size : Nat) (line : List Bool) : Nat :=
  let st := line.foldl (lineStep rule size) ⟨0, false, 0, History.empty⟩
  st.score + 40 * terminateAndCount rule size st.color st.run st.history

/-- The 2 × 2 window at (x, y) has one colour (R258). -/
def uniformWindow (m : Grid) (x y : Nat) : Bool :=
  m.get x y == m.get (x + 1) y && (m.get x y == m.get x (y + 1) && m.get x y == m.get (x + 1) (y + 1))

/-- `n2Score()` (R258). -/
def n2Score (m : Grid) (size : Nat) : Nat :=
  ((List.range (size - 1)).map fun y => 3 * (List.range (size - 1)).countP fun x => uniformWindow m x y).sum

/-- The number of dark cells of the symbol (R259). -/
def darkCount (m : Grid) (size : Nat) : Nat :=
  ((List.range size).map fun y => (m.row size y).countP id).sum

/-- `|20·D − 10·T|` (R259). -/
def imbalance (dark total : Nat) : Nat := (20 * (dark : Int) - 10 * (total : Int)).natAbs

/-- The step count k of R259, under either reading of N4_RULE. -/
def imbalanceSteps (rule : ImbalanceRule) (a total : Nat) : Nat :=
  match rule with
  | .ceilMinusOne => (a + total - 1) / total - 1
  | .floor => a / total

/-- `n4Score()` (R259). -/
def n4Score (rule : ImbalanceRule) (m : Grid) (size : Nat) : Nat :=
  10 * imbalanceSteps rule (imbalance (darkCount m size) (size * size)) (size * size)

/-- `penalty()` (R253). -/
def penaltyScore (p : Params) (m : Grid) (size : Nat) : Nat :=
  ((List.range size).map fun y => lineScore p.flankRule size (m.row size y)).sum +
  ((List.range size).map fun x => lineScore p.flankRule size (m.column size x)).sum +
  n2Score m size + n4Score p.imbalanceRule m size

/-- `penalty()` of the state's matrix (R253). -/
def State.penalty (s : State) : Nat := penaltyScore s.params s.gridM s.size.toNat

/-- PENALTY (R261). -/
def execPenalty (s : State) : Host.Outcome State Fault Refusal :=
  if s.phase = .idle then raise .sequenceError s else complete { s with result := BitVec.ofNat 32 s.penalty }

/-! ### Mask selection and finalisation (R262, R263) -/

/-- The matrix that trial `i` scores (R262): the mask on, the format bits of the trial drawn. -/
def trialOn (i : Fin 8) (s : State) : State := drawFormat i (applyMask i s)

/-- One pass of the loop of `chooseMask` (R262): the score, and the state with the mask undone. -/
def trialPass (i : Fin 8) (s : State) : Nat × State :=
  let t := trialOn i s
  (t.penalty, applyMask i t)

/-- The loop of `chooseMask` (R262) over the masks `is`: the scores in order, and the state after. -/
def trials : List (Fin 8) → State → List Nat × State
  | [], s => ([], s)
  | i :: is, s =>
    let p := trialPass i s
    let rest := trials is p.2
    (p.1 :: rest.1, rest.2)

/-- The least index with the least score (R262): the first index wins ties. -/
def bestMask (scores : List Nat) : Fin 8 :=
  (List.finRange 8).foldl (fun best i => if scores.getD i.val 0 < scores.getD best.val 0 then i else best) 0

/-- The choice of FINALIZE (R263): the mask, and the state in which it is applied, with PSCORE and BEST_PENALTY written when
the selection is automatic. -/
def selectMask (choice : MaskChoice) (s : State) : Fin 8 × State :=
  match choice with
  | .fixed m => (m, s)
  | .auto =>
    let t := trials (List.finRange 8) s
    let best := bestMask t.1
    (best, { t.2 with
      pscore := Vector.ofFn fun i : Fin 8 => BitVec.ofNat 32 (t.1.getD i.val 0)
      bestPenalty := BitVec.ofNat 32 (t.1.getD best.val 0) })

/-- The body of FINALIZE (R263). -/
def finalizeBody (choice : MaskChoice) (s : State) : State :=
  let p := selectMask choice s
  { drawVersion (drawFormat p.1 (applyMask p.1 p.2)) with
    mask := some p.1
    gridF := Grid.clear
    phase := .final }

/-- FINALIZE m (R263). -/
def execFinalize (m : Int) (s : State) : Host.Outcome State Fault Refusal :=
  if s.phase = .data then
    match maskChoice m with
    | none => raise .rangeError s
    | some choice => complete (finalizeBody choice s)
  else raise .sequenceError s

end Sys2Proof.Machine
end

