-- ==== Sys2Proof/Machine/Placement.lean ====
section
/-! DEFINITION. The zigzag scan and DRAW_CODEWORDS (43_codeword_placement.md). -/
namespace Sys2Proof.Machine

/-- The loop of `scan()` (R230) over the right columns of the pairs, the next candidate being `right`; column 6 is stepped
over. `fuel` bounds the number of pairs. -/
def rightColumns : Nat → Nat → List Nat
  | 0, _ => []
  | fuel + 1, right =>
    if right < 1 then []
    else if right = 6 then 5 :: rightColumns fuel 3
    else right :: rightColumns fuel (right - 2)

/-- The cells of one pair in the order visited (R230): upward or downward, the right column first in each row. -/
def pairCells (size right : Nat) : List (Nat × Nat) :=
  (List.range size).flatMap fun vert =>
    let upward := ((right + 1) &&& 2) == 0
    let y := if upward then size - 1 - vert else vert
    [(right, y), (right - 1, y)]

/-- `scan()` (R230): the cells (x, y) in the order visited. -/
def scan (size : Nat) : List (Nat × Nat) := (rightColumns size (size - 1)).flatMap (pairCells size)

/-- The bits of a codeword, most significant first (R231). -/
def codewordBits (b : Byte) : List Bool := (List.range 8).map fun i => b.getLsbD (7 - i)

/-- The stream of CW[0..NRC−1], MSB first (R231). -/
def streamBits (cw : List Byte) : List Bool := cw.flatMap codewordBits

/-- The data cells in scan order: the cells of `scan()` with F false (R232). -/
def dataCells (f : Grid) (size : Nat) : List (Nat × Nat) := (scan size).filter fun c => !f.get c.1 c.2

/-- `placeCodewords()` (R232): stream bit i goes to the i-th data cell; cells after the last bit are not written. -/
def placeBits (m f : Grid) (size : Nat) (bits : List Bool) : Grid :=
  ((dataCells f size).zip bits).foldl (fun g p => g.set p.1.1 p.1.2 p.2) m

/-- CW[0..NRC−1] (R54). -/
def State.codewords (s : State) : List Byte := s.mem.bytes cwBase s.nrc.toNat

/-- `placeCodewords()` on a state (R232). -/
def placeCodewords (s : State) : State :=
  { s with gridM := placeBits s.gridM s.gridF s.size.toNat (streamBits s.codewords) }

/-- DRAW_CODEWORDS (R233). -/
def execDrawCodewords (s : State) : Host.Outcome State Fault Refusal :=
  if s.phase = .ecc then complete { placeCodewords s with phase := .data } else raise .sequenceError s

end Sys2Proof.Machine
end

