-- ==== Sys2Proof/Machine/Pipeline.lean ====
section
/-! DEFINITION. ENCODE and GET_MODULE (45_pipeline_and_query.md). -/
namespace Sys2Proof.Machine

/-- The body of ENCODE (R290) on the data codewords. -/
def encodeBody (choice : MaskChoice) (data : List Byte) (s : State) : State :=
  { finalizeBody choice (placeCodewords (eccBody data (drawFunctionPatterns s))) with
    funcDone := 0b11111
    phase := .final }

/-- ENCODE m (R290): every check stands before any state changes. -/
def execEncodeSymbol (m : Int) (s : State) : Host.Outcome State Fault Refusal :=
  if s.drawsDone 0b00000 then
    match maskChoice m with
    | none => raise .rangeError s
    | some choice => withDataCodewords s (fun data => encodeBody choice data s)
  else raise .sequenceError s

/-- The module at (x, y), light outside the symbol (R291). -/
def moduleAt (s : State) (x y : Int) : Bool :=
  match coordinate s.size.toNat x, coordinate s.size.toNat y with
  | some cx, some cy => s.gridM.get cx cy
  | _, _ => false

/-- GET_MODULE x, y (R291). -/
def execGetModule (x y : Int) (s : State) : Host.Outcome State Fault Refusal :=
  complete { s with result := BitVec.ofNat 32 (moduleAt s x y).toNat }

end Sys2Proof.Machine
end

