-- ==== Sys2Proof/Machine/Dispatch.lean ====
section
/-! DEFINITION. One arm per command: the command rule of its OP (R113, R318). -/
namespace Sys2Proof.Machine

def exec (i : Instr) (s : State) : Host.Outcome State Fault Refusal :=
  match i with
  | .gfMul x y => Sys2Proof.Machine.execGfMul x y s
  | .rsDivisor degree => Sys2Proof.Machine.execRsDivisor degree s
  | .rsRemainder off len => Sys2Proof.Machine.execRsRemainder off len s
  | .config version ecl => Sys2Proof.Machine.execConfig version ecl s
  | .eccInterleave => Sys2Proof.Machine.execEccInterleave s
  | .drawTiming => Sys2Proof.Machine.execDrawTiming s
  | .drawFinders => Sys2Proof.Machine.execDrawFinders s
  | .drawAlignment => Sys2Proof.Machine.execDrawAlignment s
  | .drawFormat m => Sys2Proof.Machine.execDrawFormat m s
  | .drawVersion => Sys2Proof.Machine.execDrawVersion s
  | .drawFunctionPatterns => Sys2Proof.Machine.execDrawFunctionPatterns s
  | .drawCodewords => Sys2Proof.Machine.execDrawCodewords s
  | .applyMask m => Sys2Proof.Machine.execApplyMask m s
  | .penalty => Sys2Proof.Machine.execPenalty s
  | .finalize m => Sys2Proof.Machine.execFinalize m s
  | .encodeSymbol m => Sys2Proof.Machine.execEncodeSymbol m s
  | .getModule x y => Sys2Proof.Machine.execGetModule x y s

end Sys2Proof.Machine
end

