-- ==== Sys2Proof/Machine/HostPort.lean ====
section
/-! DEFINITION. The host's side: the register map (R32), the access primitives (R90), the events of the input queue, the
pseudo-operations (R119, R120) and the launch (R97). -/
namespace Sys2Proof.Machine

/-! ### Accesses (R81 to R84, R90) -/

/-- A register offset, 0x0000 to 0x005C in steps of 4 (R32). -/
def isRegister (off : Nat) : Bool := decide (off < 0x60 ∧ off % 4 = 0)

/-- An access error (R84): unmapped, of a wrong width (R82), or misaligned (R83). -/
def accessError (off n : Nat) : Bool :=
  !((n == 4 && off % 4 == 0 && (isRegister off || inArray off)) || (n == 1 && inArray off))

/-- The value of the register at `off` (R32): unnamed bits 0, CMD reads 0 (R86). -/
def registerValue (s : State) (off : Nat) : Word :=
  match off with
  | 0x0004 => statusWord s
  | 0x0008 => s.result
  | 0x000C => s.version.setWidth 32
  | 0x0010 => BitVec.ofNat 32 s.ecl.ordinal
  | 0x0014 => s.size.setWidth 32
  | 0x0018 => BitVec.ofNat 32 (maskCode s.mask)
  | 0x001C => s.dataLen.setWidth 32
  | 0x0020 => s.ndc.setWidth 32
  | 0x0024 => s.nrc.setWidth 32
  | 0x0028 => s.nblk.setWidth 32
  | 0x002C => s.ecclen.setWidth 32
  | 0x0030 => s.deg.setWidth 32
  | 0x0034 => s.bestPenalty
  | 0x0038 => s.nshort.setWidth 32
  | 0x003C => s.sblen.setWidth 32
  | _ => if 0x0040 ≤ off then s.pscore.toList.getD ((off - 0x0040) / 4) 0 else 0

/-- `Σ byte(off+i) << (8·i)` (R90): little-endian (R81). -/
def wordOfBytes : List Byte → Word
  | [] => 0
  | b :: bs => b.setWidth 32 ||| (wordOfBytes bs <<< 8)

/-- The low `n` bytes of `v`, least significant first (R81). -/
def bytesOfWord (n : Nat) (v : Word) : List Byte := (List.range n).map fun i => v.extractLsb' (8 * i) 8

/-- MemRead(off, n) (R90). -/
def hostRead (off n : Nat) (s : State) : Except Fault Word :=
  if accessError off n then .error .hostAccessError
  else if s.busy ∧ off ≠ 0x0004 then .error .hostProtocolViolation
  else if isRegister off then .ok (registerValue s off)
  else
    match s.mem.readBytes off n with
    | none => .error .unwrittenDataRead
    | some bs => .ok (wordOfBytes bs)

/-- MemWrite(off, n, v) (R90): CMD starts a command (R35), DATA_LEN and DATA store, anything else is ignored (R85). -/
def hostWrite (off n : Nat) (v : Word) (s : State) : Except Fault State :=
  if accessError off n then .error .hostAccessError
  else if s.busy then .error .hostProtocolViolation
  else if off = 0x0000 then .ok { s with pend := some v }
  else if off = 0x001C then .ok { s with dataLen := v.extractLsb' 0 12 }
  else if inData off then .ok { s with mem := s.mem.store off (bytesOfWord n v) }
  else .ok s

/-! ### The bus address of an offset (R80) -/

/-- The host bus address of an offset. -/
def busAddress (off : Nat) : Nat := Config.qrencBase + off

/-- The offset of a host bus address, if it is in the offset space 0x0000 to 0x3FFF. -/
def busOffset (addr : Nat) : Option Nat :=
  if Config.qrencBase ≤ addr ∧ addr < Config.qrencBase + 0x4000 then some (addr - Config.qrencBase) else none

/-! ### Reset (R340) -/

/-- The platform's reset input (R340): every piece of QRENC's state takes its reset value, a pending command is discarded.
The model's own fields stay: the parameters, the launched hosts and what they still issue, and the log of what they read. -/
def platformReset (s : State) : State :=
  { State.reset with params := s.params, hosts := s.hosts, inputs := s.inputs, sched := s.sched, readLog := s.readLog }

/-! ### The input queue -/

/-- Record a value returned by a host read. -/
def State.logRead (v : Word) (s : State) : State := { s with readLog := v :: s.readLog }

/-- One event of the queue, already taken off it. POLL (R119) reads STATUS and stays in the queue while BUSY = 1. -/
def takeInput (inp : Input) (s : State) : Host.Outcome State Fault Refusal :=
  match inp with
  | .read off n =>
    match hostRead off n s with
    | .ok v => .next (s.logRead v)
    | .error f => .fault f
  | .write off n v =>
    match hostWrite off n v s with
    | .ok t => .next t
    | .error f => .fault f
  | .poll =>
    if s.busy then .next ({ s with inputs := .poll :: s.inputs }.logRead (statusWord s))
    else .next (s.logRead (statusWord s))
  | .reset => .next (platformReset s)

/-- The host's turn: its next event, or nothing to do. -/
def hostStep (s : State) : Host.Outcome State Fault Refusal :=
  match s.inputs with
  | [] => .next s
  | inp :: rest => takeInput inp { s with inputs := rest }

/-! ### Pseudo-operations (R119, R120) -/

/-- `WR off, v`. -/
def wr (off : Nat) (v : Word) : List Input := [.write off 4 v]
/-- `WRB off, v`. -/
def wrb (off : Nat) (v : Byte) : List Input := [.write off 1 (v.setWidth 32)]
/-- `RD off`. -/
def rd (off : Nat) : List Input := [.read off 4]
/-- `RDB off`. -/
def rdb (off : Nat) : List Input := [.read off 1]
/-- `WR 0x0000, w; POLL` of a word. -/
def issueWord (w : Word) : List Input := wr 0x0000 w ++ [.poll]
/-- `ISSUE cmd` is `WR 0x0000, word(cmd); POLL`. -/
def issue (i : Instr) : List Input := issueWord (encode i)
/-- `LOAD off, b0, b1, …` is `WRB 0x1000+off+i, bi` for each byte in order. -/
def load (off : Nat) (bs : List Byte) : List Input := bs.zipIdx.flatMap fun p => wrb (dataBase + off + p.2) p.1
/-- `TRIAL m` (R120). -/
def trialOps (m : Int) : List Input :=
  issue (.applyMask m) ++ issue (.drawFormat m) ++ issue .penalty ++ issue (.applyMask m)

/-- Launch the host programs (R97): with more than one host, `step` answers the fault TwoHosts. -/
def launch (programs : List (List Input)) (s : State) : State :=
  { s with hosts := programs.length, inputs := programs.headD [] }

end Sys2Proof.Machine
end

