-- ==== Sys2Proof/Machine/Engine.lean ====
section
/-! DEFINITION. The command engine's step (R318) and the choice of the agent that moves. -/
namespace Sys2Proof.Machine

/-- Perform the command word `w` (R318): an illegal word raises IllegalCommand (R115), any other runs its command rule. -/
def runWord (w : Word) (s : State) : Host.Outcome State Fault Refusal :=
  match decode w with
  | .error _ => raise .illegalCommand s
  | .ok i => exec i s

/-- EngineStep (R318): enabled when PEND holds a word. PEND is emptied by COMPLETE and by raise. -/
def engineStep (s : State) : Host.Outcome State Fault Refusal :=
  match s.pend with
  | none => .next s
  | some w => runWord w s

/-- The agent that moves, and the schedule after (log 2). An agent that has nothing to do gives its turn to the other. With
an empty schedule the engine moves when it is enabled, else the host. -/
def takeTurn (s : State) : Agent × List Agent :=
  match s.sched with
  | [] => (if s.busy then .engine else .host, [])
  | .engine :: rest => (if s.busy then .engine else .host, rest)
  | .host :: rest => (if s.inputs.isEmpty then .engine else .host, rest)

/-- One turn of one agent. -/
def moveOf (a : Agent) (s : State) : Host.Outcome State Fault Refusal :=
  match a with
  | .engine => engineStep s
  | .host => hostStep s

/-- One step of the machine: two hosts are refused (R97); else one agent moves. -/
def stepMachine (s : State) : Host.Outcome State Fault Refusal :=
  if 1 < s.hosts then .fault .twoHosts
  else moveOf (takeTurn s).1 { s with sched := (takeTurn s).2 }

/-- The host's CMD write of the word of `nbits` bits whose value is `w`, done, and the engine next (log 14). -/
def placeCommand (s : State) (nbits w : Nat) : State :=
  { s with pend := some (BitVec.ofNat 32 (w % 2 ^ nbits)), sched := .engine :: s.sched }

end Sys2Proof.Machine
end

