-- ==== Sys2Proof/Machine/Step.lean ====
section
/-! DEFINITION. One step of the machine, and how a command word is placed where the engine takes its next one. -/
namespace Sys2Proof.Machine

/-- One step: an engine step (R318), a host access (R90), a platform reset (R340), or nothing to do (R341). -/
def step (s : State) : Host.Outcome State Fault Refusal := stepMachine s

/-- `s` with the command of `nbits` bits whose value is `w` pending and the engine next: QRENC fetches nothing (R31), the
host writes a command into CMD (R35). -/
def State.withFetchWord (s : State) (nbits w : Nat) : State := placeCommand s nbits w

end Sys2Proof.Machine
end

