-- ==== Sys2Proof/Safety.lean ====
section
/-! DEFINITION. The terms the claims use: the spec's own tables and figures written independently of the meanings, the
invariants, and what a safe and a finished run is. -/
namespace Sys2Proof.Machine

/-! ### Polynomials over GF(256) (R12, R140): lists of bytes, highest power first -/

/-- The carry-less product of two bytes, not yet reduced: XOR of the shifted copies of `x` (R141). -/
def clProduct (x y : Byte) : Nat :=
  (List.range 8).foldl (fun acc i => if y.getLsbD i then acc ^^^ (x.toNat <<< i) else acc) 0

/-- Reduction modulo 0x11D: cancel bits 14 down to 8 with shifted copies of the modulus (R141). -/
def reduce11D (p : Nat) : Nat :=
  [14, 13, 12, 11, 10, 9, 8].foldl (fun acc k => if acc.testBit k then acc ^^^ (0x11D <<< (k - 8)) else acc) p

/-- 2^i in GF(256) (R142). -/
def gfPow : Nat → Byte
  | 0 => 1
  | i + 1 => gfmul (gfPow i) 2

/-- The product of two polynomials, by the school method; the length is the sum of the lengths less 1. -/
def polyMul : List Byte → List Byte → List Byte
  | [], g => List.replicate (g.length - 1) 0
  | a :: q, g => (g.map (gfmul a) ++ List.replicate q.length 0).zipWith (· ^^^ ·) (0 :: polyMul q g)

/-- Π (x ⊕ 2^i) for i < `d` (R143), leading 1 included. -/
def generatorPoly (d : Nat) : List Byte := (List.range d).foldl (fun p i => polyMul p [1, gfPow i]) [1]

/-! ### Legality, errors and phases as tables (R33, R113, R312) -/

/-- The "legal when" column of R33's table (for APPLY_MASK its phase part, R252 check 2). -/
def legalPhase (i : Instr) (s : State) : Bool :=
  match i with
  | .gfMul _ _ => true
  | .rsDivisor _ => true
  | .rsRemainder _ _ => s.deg != 0
  | .config _ _ => true
  | .eccInterleave => s.phase == .fixed
  | .drawTiming => s.phase == .configured && s.funcDone == 0b00000
  | .drawFinders => s.phase == .configured && s.funcDone == 0b00001
  | .drawAlignment => s.phase == .configured && s.funcDone == 0b00011
  | .drawFormat _ => (s.phase == .configured && s.funcDone == 0b00111) || s.phase == .data || s.phase == .trial
  | .drawVersion => s.phase == .configured && s.funcDone == 0b01111
  | .drawFunctionPatterns => s.phase == .configured && s.funcDone == 0b00000
  | .drawCodewords => s.phase == .ecc
  | .applyMask _ => s.phase == .data || s.phase == .trial
  | .penalty => s.phase != .idle
  | .finalize _ => s.phase == .data
  | .encodeSymbol _ => s.phase == .configured && s.funcDone == 0b00000
  | .getModule _ _ => true

/-- The "range" column of R113's table. -/
def inRange : Instr → Bool
  | .gfMul _ _ => true
  | .rsDivisor degree => decide (1 ≤ degree ∧ degree ≤ 255)
  | .rsRemainder off len => decide (off + len ≤ 2956)
  | .config version _ => decide (1 ≤ version ∧ version ≤ 40)
  | .eccInterleave => true
  | .drawTiming => true
  | .drawFinders => true
  | .drawAlignment => true
  | .drawFormat m => decide (0 ≤ m ∧ m ≤ 7)
  | .drawVersion => true
  | .drawFunctionPatterns => true
  | .drawCodewords => true
  | .applyMask m => decide (0 ≤ m ∧ m ≤ 7)
  | .penalty => true
  | .finalize m => decide (-1 ≤ m ∧ m ≤ 7)
  | .encodeSymbol m => decide (-1 ≤ m ∧ m ≤ 7)
  | .getModule _ _ => true

/-- Check 4 of R312: in PHASE 5 the operand of APPLY_MASK is the trial mask on the matrix. -/
def trialAgrees (i : Instr) (s : State) : Bool :=
  match i with
  | .applyMask m => !(s.phase == .trial) || (maskCode s.trial : Int) == m
  | _ => true

/-- Column "5, 6" of R312's table: the commands that compare DATA_LEN with NDC. -/
def comparesLength : Instr → Bool
  | .eccInterleave => true
  | .encodeSymbol _ => true
  | _ => false

/-- The first error of a decoded command in the order of R312, checks 2 to 6. -/
def firstError (i : Instr) (s : State) : Option ErrCode :=
  if !legalPhase i s then some .sequenceError
  else if !inRange i then some .rangeError
  else if !trialAgrees i s then some .sequenceError
  else if comparesLength i && decide (s.ndc.toNat < s.dataLen.toNat) then some .capacityExceeded
  else if comparesLength i && decide (s.dataLen.toNat < s.ndc.toNat) then some .lengthMismatch
  else none

/-- Column 7 of R312's table: the range of DATA (first index, length) that the command reads. -/
def dataRange (i : Instr) (s : State) : Nat × Nat :=
  match i with
  | .rsRemainder off len => (off, len)
  | .eccInterleave => (0, s.ndc.toNat)
  | .encodeSymbol _ => (0, s.ndc.toNat)
  | _ => (0, 0)

/-- Every byte the command reads has its written bit set (R89). -/
def dataWritten (i : Instr) (s : State) : Bool :=
  (List.range (dataRange i s).2).all fun k => (s.mem.read (dataBase + (dataRange i s).1 + k)).isSome

/-- The "PHASE after success" column of R33's table. -/
def phaseAfter (i : Instr) (s : State) : Phase :=
  match i with
  | .gfMul _ _ => s.phase
  | .rsDivisor _ => s.phase
  | .rsRemainder _ _ => s.phase
  | .config _ _ => .configured
  | .eccInterleave => .ecc
  | .drawTiming => .configured
  | .drawFinders => .configured
  | .drawAlignment => .configured
  | .drawFormat _ => s.phase
  | .drawVersion => .fixed
  | .drawFunctionPatterns => .fixed
  | .drawCodewords => .data
  | .applyMask _ => if s.phase = .data then .trial else .data
  | .penalty => s.phase
  | .finalize _ => .final
  | .encodeSymbol _ => .final
  | .getModule _ _ => s.phase

/-- Run commands one after another; no value when one faults or reports an error. -/
def succeeds : List Instr → State → Option State
  | [], s => some s
  | i :: is, s =>
    match exec i s with
    | .next t => if t.err = .ok then succeeds is t else none
    | _ => none

/-! ### The patterns of the symbol, by position -/

/-- The Chebyshev distance of two cells (R203). -/
def cellDistance (x y cx cy : Nat) : Nat := max ((x : Int) - (cx : Int)).natAbs ((y : Int) - (cy : Int)).natAbs

/-- The distance to the nearest finder centre (R204). -/
def finderDistance (size x y : Nat) : Nat :=
  min (cellDistance x y 3 3) (min (cellDistance x y (size - 4) 3) (cellDistance x y 3 (size - 4)))

/-- (cx, cy) is the centre of an alignment pattern that is drawn (R207): both coordinates from `alignPos`, not a finder
corner. -/
def isAlignCentre (v cx cy : Nat) : Prop :=
  cx ∈ alignPos v ∧ cy ∈ alignPos v ∧ ¬(cx = 6 ∧ cy = 6) ∧ ¬(cx = 6 ∧ cy = symbolSize v - 7) ∧
    ¬(cx = symbolSize v - 7 ∧ cy = 6)

/-- The cell of format bit `i` in the first copy (R209). -/
def formatCell (i : Nat) : Nat × Nat :=
  if i ≤ 5 then (8, i) else if i = 6 then (8, 7) else if i = 7 then (8, 8) else if i = 8 then (7, 8) else (14 - i, 8)

/-- The cell of format bit `i` in the second copy (R209). -/
def formatCell2 (size i : Nat) : Nat × Nat := if i ≤ 7 then (size - 1 - i, 8) else (8, size - 15 + i)

/-- (x, y) is one of the 31 cells of R209. -/
def isFormatCell (size x y : Nat) : Prop :=
  (∃ i < 15, (x, y) = formatCell i ∨ (x, y) = formatCell2 size i) ∨ (x, y) = (8, size - 8)

/-- (x, y) is one of the 36 version cells of R212. -/
def isVersionCell (size v x y : Nat) : Prop :=
  7 ≤ v ∧ ∃ i < 18, (x, y) = (size - 11 + i % 3, i / 3) ∨ (x, y) = (i / 3, size - 11 + i % 3)

/-- Every format cell is a function cell, and every version cell is one and holds its bit: what the draws before PHASE 4
establish (R33, R200). -/
def PatternsInPlace (s : State) : Prop :=
  (∀ x y, isFormatCell s.size.toNat x y → s.gridF.get x y = true) ∧
  (7 ≤ s.version.toNat → ∀ i < 18,
    s.gridF.get (s.size.toNat - 11 + i % 3) (i / 3) = true ∧ s.gridF.get (i / 3) (s.size.toNat - 11 + i % 3) = true ∧
    s.gridM.get (s.size.toNat - 11 + i % 3) (i / 3) = (versionBits s.version.toNat).getLsbD i ∧
    s.gridM.get (i / 3) (s.size.toNat - 11 + i % 3) = (versionBits s.version.toNat).getLsbD i)

/-! ### The block layout by index (R177, R179) -/

/-- The first data codeword of block `j` (R177): consecutive runs, short blocks first. -/
def blockStart (l : Layout) (j : Nat) : Nat := j * l.shortData + (j - l.nshort)

/-- The number of data codewords of block `j` (R177). -/
def blockLength (l : Layout) (j : Nat) : Nat := if j < l.nshort then l.shortData else l.shortData + 1

/-- The data codewords of block `j` (R177). -/
def blockData (l : Layout) (data : List Byte) (j : Nat) : List Byte :=
  (data.drop (blockStart l j)).take (blockLength l j)

/-- The ECC codewords of block `j` (R177). -/
def blockEcc (l : Layout) (data : List Byte) (j : Nat) : List Byte := remainder (blockData l data j) (divisor l.ecclen)

/-! ### The scan by index (R230) -/

/-- The right column of pair `p`, counted from the right edge (R230): the pairs from column 6 on are one column left. -/
def pairRight (size p : Nat) : Nat := if 6 < size - 1 - 2 * p then size - 1 - 2 * p else size - 2 - 2 * p

/-- The `k`-th row visited in pair `p` (R230): upward in the first pair, then alternating. -/
def pairRow (size p k : Nat) : Nat := if p % 2 = 0 then size - 1 - k else k

/-! ### The mask predicates over one period (R250, R264) -/

/-- R264's table: row `m` lists y = 0 to 5, the leftmost bit of a number is x = 0. -/
def maskCorner : List (List Nat) :=
  [ [0b101010, 0b010101, 0b101010, 0b010101, 0b101010, 0b010101],
    [0b111111, 0b000000, 0b111111, 0b000000, 0b111111, 0b000000],
    [0b100100, 0b100100, 0b100100, 0b100100, 0b100100, 0b100100],
    [0b100100, 0b001001, 0b010010, 0b100100, 0b001001, 0b010010] ] ++
  [ [0b111000, 0b111000, 0b000111, 0b000111, 0b111000, 0b111000],
    [0b111111, 0b100000, 0b100100, 0b101010, 0b100100, 0b100000],
    [0b111111, 0b111000, 0b110110, 0b101010, 0b101101, 0b100011],
    [0b101010, 0b000111, 0b100011, 0b010101, 0b111000, 0b011100] ]

/-- The value R264's table gives mask `m` at (x, y), x, y < 6. -/
def maskCornerAt (m x y : Nat) : Bool := ((maskCorner.getD m []).getD y 0).testBit (5 - x)

/-! ### The four penalties, by position (R256 to R259) -/

/-- The N1 points of one line: 3 + (L − 5) for every maximal run of L ≥ 5 equal cells (R256). -/
def runPoints (line : List Bool) : Nat :=
  ((line.splitBy (· == ·)).map fun run => if 5 ≤ run.length then 3 + (run.length - 5) else 0).sum

/-- How often the first seven of `runs` count as a finder pattern (R257): five core runs in 1:1:3:1:1, the first of them
dark, between a leading flank and a trailing flank. -/
def finderWindow (rule : FlankRule) : List (List Bool) → Nat
  | lead :: c1 :: c2 :: c3 :: c4 :: c5 :: trail :: _ =>
    if c1.head? = some true ∧ c2.length = c1.length ∧ c3.length = 3 * c1.length ∧ c4.length = c1.length ∧
        c5.length = c1.length then
      match rule with
      | .perSide =>
        (if 4 * c1.length ≤ trail.length ∧ c1.length ≤ lead.length then 1 else 0) +
        (if 4 * c1.length ≤ lead.length ∧ c1.length ≤ trail.length then 1 else 0)
      | .bothSides => if 4 * c1.length ≤ trail.length ∧ 4 * c1.length ≤ lead.length then 1 else 0
    else 0
  | _ => 0

/-- The N3 count of one line: the finder windows among the maximal runs of the line with a light border of `size` cells on
either side (R254, R257). -/
def finderLikeCount (rule : FlankRule) (size : Nat) (line : List Bool) : Nat :=
  (((List.replicate size false ++ line ++ List.replicate size false).splitBy (· == ·)).tails.map (finderWindow rule)).sum

/-- N1 and N3 of one line (R255). -/
def linePoints (rule : FlankRule) (size : Nat) (line : List Bool) : Nat :=
  runPoints line + 40 * finderLikeCount rule size line

/-- The cells (x, y) with x, y < `n`. -/
def cellsBelow (n : Nat) : List (Nat × Nat) := (List.range n).product (List.range n)

/-- The number of 2 × 2 windows of one colour, overlapping ones included (R258). -/
def uniformWindowCount (m : Grid) (size : Nat) : Nat :=
  (cellsBelow (size - 1)).countP fun c => decide (m.get c.1 c.2 = m.get (c.1 + 1) c.2 ∧
    m.get c.1 c.2 = m.get c.1 (c.2 + 1) ∧ m.get c.1 c.2 = m.get (c.1 + 1) (c.2 + 1))

/-- D, the number of dark cells (R259). -/
def darkCells (m : Grid) (size : Nat) : Nat := (cellsBelow size).countP fun c => m.get c.1 c.2

/-- `k` is the step count of the deviation `a` over the total `total` (R259): FLOOR is the quotient rounded down;
CEIL_MINUS_ONE is the quotient rounded up less 1, and 0 at a = 0. -/
def isImbalanceStep (rule : ImbalanceRule) (a total k : Nat) : Prop :=
  match rule with
  | .floor => total * k ≤ a ∧ a < total * (k + 1)
  | .ceilMinusOne => (a = 0 ∧ k = 0) ∨ (total * k < a ∧ a ≤ total * (k + 1))

/-! ### Invariants -/

/-- The symbol registers hold what CONFIG writes for the held VERSION and ECL (R176). -/
structure Configured (s : State) : Prop where
  version_pos : 1 ≤ s.version.toNat
  version_le : s.version.toNat ≤ 40
  size_eq : s.size.toNat = symbolSize s.version.toNat
  nrc_eq : s.nrc.toNat = rawCodewords s.version.toNat
  nblk_eq : s.nblk.toNat = numBlocks s.ecl s.version.toNat
  ecclen_eq : s.ecclen.toNat = eccPerBlock s.ecl s.version.toNat
  ndc_eq : s.ndc.toNat = dataCodewords s.version.toNat s.ecl
  nshort_eq : s.nshort.toNat = shortBlocks s.version.toNat s.ecl
  sblen_eq : s.sblen.toNat = shortBlockLength s.version.toNat s.ecl

/-- The symbol registers are all 0: no symbol (R37 to R47, "0 in IDLE"). -/
structure Unconfigured (s : State) : Prop where
  version_eq : s.version = 0
  ecl_eq : s.ecl = .low
  size_eq : s.size = 0
  nrc_eq : s.nrc = 0
  nblk_eq : s.nblk = 0
  ecclen_eq : s.ecclen = 0
  ndc_eq : s.ndc = 0
  nshort_eq : s.nshort = 0
  sblen_eq : s.sblen = 0

/-- The values FUNC_DONE can hold in a phase (R33, R200). -/
def funcDoneFits (p : Phase) (done : BitVec 5) : Bool :=
  match p with
  | .idle => done == 0b00000
  | .configured =>
    done == 0b00000 || done == 0b00001 || done == 0b00011 || done == 0b00111 || done == 0b01111
  | _ => done == 0b11111

/-- The invariant of the machine: what the rules say of every state that can be held. -/
structure Inv (s : State) : Prop where
  /-- The arrays are in canonical form. -/
  mem_wf : s.mem.wf = true
  /-- R37 to R47: no symbol in IDLE. -/
  idle : s.phase = .idle → Unconfigured s
  /-- R37 to R47, R176: the symbol registers belong to VERSION and ECL. -/
  symbol : s.phase ≠ .idle → Configured s
  /-- R33, R200. -/
  func_done : funcDoneFits s.phase s.funcDone = true
  /-- R34: "TRIAL ≠ 0xF holds exactly when PHASE = 5". -/
  trial : s.trial.isSome = (s.phase == .trial)
  /-- R40: MASK is concrete exactly in PHASE 6. -/
  mask : s.mask.isSome = (s.phase == .final)
  /-- R6, R311: code 6 is never produced. -/
  err : s.err ≠ .inputEncodingError
  /-- R51: DIV[j] = 0 for every j ≥ DEG. -/
  div_zero : ∀ j, s.deg.toNat ≤ j → j < 256 → s.mem.read (divBase + j) = some 0
  /-- R8: REM[255] always reads 0. -/
  rem_last : s.mem.read (remBase + 255) = some 0
  /-- R54, R180: CW beyond NRC is 0. -/
  cw_zero : ∀ k, s.nrc.toNat ≤ k → k < 3708 → s.mem.read (cwBase + k) = some 0
  /-- R55: no command but CONFIG writes M outside the symbol. -/
  m_outside : ∀ x y, s.size.toNat ≤ x ∨ s.size.toNat ≤ y → s.gridM.get x y = false
  /-- R55, R56: nor F. -/
  f_outside : ∀ x y, s.size.toNat ≤ x ∨ s.size.toNat ≤ y → s.gridF.get x y = false

/-- The function-pattern cells that the draws recorded in FUNC_DONE have written (R56, R200). -/
def drawnWrites (s : State) : List ModuleWrite :=
  (if s.funcDone.getLsbD 0 then timingWrites s.size.toNat else []) ++
  (if s.funcDone.getLsbD 1 then findersWrites s.size.toNat else []) ++
  (if s.funcDone.getLsbD 2 then alignmentsWrites s.size.toNat s.version.toNat else []) ++
  (if s.funcDone.getLsbD 3 then formatWrites s.size.toNat 0 else []) ++
  (if s.funcDone.getLsbD 4 then versionWrites s.size.toNat s.version.toNat else [])

/-- R56: "F[y][x] is true exactly when the cell (x,y) has been written by a function-pattern draw … since the last CONFIG
and no FINALIZE or ENCODE has completed since then." -/
def ShadowExact (s : State) : Prop :=
  ∀ x y, s.gridF.get x y = true ↔ s.phase ≠ .final ∧ ∃ w ∈ drawnWrites s, w.x = x ∧ w.y = y

/-- In PHASE 2 to 5 the format and version cells are in place (R200, R213). -/
def PatternsKept (s : State) : Prop :=
  s.phase = .fixed ∨ s.phase = .ecc ∨ s.phase = .data ∨ s.phase = .trial → PatternsInPlace s

/-! ### Runs (R350) -/

/-- The step does not stop with a model fault. -/
def SafeStep (s : State) : Prop := ∀ f, step s ≠ .fault f

/-- The host has stopped and no command is pending (R350). -/
def Final (s : State) : Prop := s.inputs = [] ∧ s.busy = false

/-- While a command is pending the host only reads STATUS (R347). -/
def OnlyPolls (s : State) : Prop := ∀ inp ∈ s.inputs, inp = .poll ∨ inp = .read 0x0004 4

end Sys2Proof.Machine
end

