-- ==== Sys2Proof/Certificates/Slice0/Obligations.lean ====
section
/-! DEFINITION. What is claimed of the model: one statement a definition, listed in OBLIGATIONS.json. Every docstring names
the rules of spec/ it formalises. `t = { s with … }` in a statement is its frame: every field that is not named is
unchanged. A conclusion `∃ t, exec i s = .next t ∧ …` says that the command completes. -/

open Sys2Proof Sys2Proof.Machine

/-! ### Encoding (30_encoding.md) -/

/-- R118: decoding the word of a well-formed command gives the command back, with every operand. -/
def Obligations.DecodeOfEncode : Prop := ∀ i : Instr, i.wellFormed = true → decode (encode i) = .ok i

/-- R112, R118: a decoded command is well-formed, and its word is the word it was decoded from. -/
def Obligations.EncodeOfDecode : Prop :=
  ∀ (w : Word) (i : Instr), decode w = .ok i → i.wellFormed = true ∧ encode i = w

/-- R113: a word is a command exactly when it selects a row of the table by `(w & mask) = match`, and no word selects two. -/
def Obligations.LegalWordsSelectOneRow : Prop :=
  (∀ w : Word, (∃ i, decode w = .ok i) ↔ ∃ r ∈ opcodeTable, w &&& r.mask = r.pattern) ∧
  ∀ w : Word, ∀ r ∈ opcodeTable, ∀ r' ∈ opcodeTable,
    w &&& r.mask = r.pattern → w &&& r'.mask = r'.pattern → r = r'

/-- R115: a word whose OP is in no row, or that sets a reserved bit of its OP's row, is illegal; it raises IllegalCommand
and changes nothing else. -/
def Obligations.IllegalWordsRaise : Prop :=
  ∀ (w : Word) (s : State),
    ((∀ r ∈ opcodeTable, r.pattern.setWidth 8 ≠ opField w) ∨
      ∃ r ∈ opcodeTable, r.pattern.setWidth 8 = opField w ∧ w &&& r.mask ≠ r.pattern) →
    (∃ e, decode w = .error e) ∧ runWord w s = .next { s with err := .illegalCommand, pend := none }

/-- R118's table of examples, and rows of 95_test_vectors.md: words written out decode to the commands they stand for. -/
def Obligations.WrittenOutWordsDecode : Prop :=
  decode 0x08305701 = .ok (.gfMul 0x57 0x83) ∧ decode 0x00000702 = .ok (.rsDivisor 7) ∧
  decode 0x01300003 = .ok (.rsRemainder 0 19) ∧ decode 0x00102810 = .ok (.config 40 .medium) ∧
  decode 0x00000011 = .ok .eccInterleave ∧ decode 0x0000002F = .ok .drawFunctionPatterns ∧
  decode 0x00000030 = .ok .drawCodewords ∧ decode 0x00000540 = .ok (.applyMask 5) ∧
  decode 0x000FFF42 = .ok (.finalize (-1)) ∧ decode 0x00000350 = .ok (.encodeSymbol 3) ∧
  decode 0x00D00860 = .ok (.getModule 8 13) ∧ decode 0x80000060 = .ok (.getModule 0 (-2048))

/-! ### The step (60_exceptions.md R318; the schedule is the model's, log 2) -/

/-- R318: when the engine has the turn, a step runs the pending word's command; around `exec` it only takes the head off the
schedule. An illegal word raises IllegalCommand. -/
def Obligations.StepRunsPendingCommand : Prop :=
  ∀ (s : State) (w : Word), s.hosts ≤ 1 → s.pend = some w → (s.sched = [] ∨ ∃ rest, s.sched = .engine :: rest) →
    (∀ i, decode w = .ok i → step s = exec i { s with sched := s.sched.tail }) ∧
    (∀ e, decode w = .error e → step s = .next { s with sched := s.sched.tail, err := .illegalCommand, pend := none })

/-- A well-formed command placed by `withFetchWord` is what the very next step runs (log 14). -/
def Obligations.PlacedCommandRunsNext : Prop :=
  ∀ (s : State) (i : Instr), s.hosts ≤ 1 → i.wellFormed = true →
    decodeTableWord 32 (encode i).toNat = some i ∧
    step (s.withFetchWord 32 (encode i).toNat) = exec i { s with pend := some (encode i) }

/-- R341, R7: with no command pending the engine does nothing. That a step is then the host's next event is the model's choice
(the list of events, log 1, and the empty schedule, log 2), and so is that a step with no event left answers the state
unchanged (log 12). -/
def Obligations.IdleMachineServesHost : Prop :=
  ∀ s : State, s.hosts ≤ 1 → s.pend = none → s.sched = [] →
    (s.inputs = [] → step s = .next s) ∧
    ∀ inp rest, s.inputs = inp :: rest → step s = takeInput inp { s with inputs := rest }

/-- R318: an enabled engine step is eventually taken. While the host only reads STATUS, after at most as many host turns as
the schedule holds (log 2) the next step runs the pending word, on a state that differs only in the host's queue, schedule
and log. -/
def Obligations.PendingCommandIsTaken : Prop :=
  ∀ (s : State) (w : Word), s.hosts ≤ 1 → s.pend = some w → OnlyPolls s →
    ∃ k ≤ s.sched.length, ∃ u : State, Host.Core.run core k s = .next u ∧
      u = { s with inputs := u.inputs, sched := u.sched, readLog := u.readLog } ∧
      step u = runWord w { u with sched := u.sched.tail }

/-- R119: `ISSUE cmd` is a CMD write and a POLL. From an idle machine with the empty schedule (log 2), three steps write CMD,
run the command and read STATUS after it. -/
def Obligations.IssueRunsCommand : Prop :=
  ∀ (s t : State) (i : Instr) (rest : List Input), s.hosts ≤ 1 → s.sched = [] → s.pend = none →
    s.inputs = issue i ++ rest → i.wellFormed = true →
    exec i { s with inputs := .poll :: rest, pend := some (encode i) } = .next t →
    Host.Core.run core 3 s = .next { t with inputs := rest, readLog := statusWord t :: s.readLog }

/-! ### Rules of the whole machine (10_state.md, 60_exceptions.md) -/

/-- R312, R33, R113: the first error in the order of R312 decides; with none, the command completes, unless it would read a
DATA byte never written, which is the model fault of R89. Holds for every word, so it says of every command where it
completes and where it stops. -/
def Obligations.FirstErrorDecidesOutcome : Prop :=
  ∀ (w : Word) (s : State),
    (∀ e, decode w = .error e → runWord w s = .next { s with err := .illegalCommand, pend := none }) ∧
    ∀ i, decode w = .ok i →
      (∀ e, firstError i s = some e → runWord w s = .next { s with err := e, pend := none }) ∧
      (firstError i s = none → dataWritten i s = true → ∃ t, runWord w s = .next t ∧ t.err = .ok ∧ t.pend = none) ∧
      (firstError i s = none → dataWritten i s = false → runWord w s = .fault .unwrittenDataRead)

/-- R313: a command that raises an error changes only STATUS.ERR and STATUS.BUSY. -/
def Obligations.ErrorsLeaveAllElseUnchanged : Prop :=
  ∀ (i : Instr) (s t : State), exec i s = .next t → t.err ≠ .ok → t = { s with err := t.err, pend := none }

/-- R314, R58: every completed command writes ERR and clears BUSY, and no command reads ERR. -/
def Obligations.CommandsWriteErrAndNeverReadIt : Prop :=
  ∀ (i : Instr) (s : State) (e : ErrCode),
    exec i { s with err := e } = exec i s ∧
    ∀ t, exec i s = .next t → t.pend = none ∧ t.err ≠ .inputEncodingError

/-- R53, R41: no command writes DATA, a written bit or DATA_LEN; nor the parameters, the launch, the host's queue, the
schedule or the log of reads (the model's own fields, logs 1 to 4 and 19). -/
def Obligations.CommandsKeepHostData : Prop :=
  ∀ (i : Instr) (s t : State), exec i s = .next t →
    (∀ off, inData off = true → t.mem.read off = s.mem.read off) ∧ t.dataLen = s.dataLen ∧ t.params = s.params ∧
    t.hosts = s.hosts ∧ t.inputs = s.inputs ∧ t.sched = s.sched ∧ t.readLog = s.readLog

/-- R33: the table of phases. A successful command was legal and leaves the phase the table names; one in another phase
raises SequenceError; PHASE is 0 after reset and never 7. -/
def Obligations.PhaseTableHolds : Prop :=
  (∀ (i : Instr) (s t : State), exec i s = .next t → t.err = .ok → legalPhase i s = true ∧ t.phase = phaseAfter i s) ∧
  (∀ (i : Instr) (s : State), legalPhase i s = false → exec i s = .next { s with err := .sequenceError, pend := none }) ∧
  (∀ (m : Int) (s : State), -2048 ≤ m → m ≤ 2047 → s.phase = .trial → (maskCode s.trial : Int) ≠ m → 0 ≤ m → m ≤ 7 →
    exec (.applyMask m) s = .next { s with err := .sequenceError, pend := none }) ∧
  State.reset.phase = .idle ∧ ∀ p : Phase, p.code ≤ 6

/-- R293: in PHASE 6 only the six named commands succeed, and of them only CONFIG changes M. -/
def Obligations.FinishedSymbolIsReadOnly : Prop :=
  ∀ (i : Instr) (s t : State), s.phase = .final → exec i s = .next t → t.err = .ok →
    (∃ v e, i = .config v e) ∨
    (t.gridM = s.gridM ∧ t.phase = .final ∧
      ((∃ x y, i = .gfMul x y) ∨ (∃ d, i = .rsDivisor d) ∨ (∃ off len, i = .rsRemainder off len) ∨ i = .penalty ∨
        ∃ x y, i = .getModule x y))

/-- R319: a step stops only with the faults of the table, each only for its cause, and never refuses. -/
def Obligations.StepStopsOnlyAsListed : Prop :=
  ∀ s : State, (∀ r, step s ≠ .refused r) ∧
    (step s = .fault .twoHosts ↔ 1 < s.hosts) ∧
    (step s = .fault .hostAccessError → ∃ off n v rest,
      (s.inputs = .read off n :: rest ∨ s.inputs = .write off n v :: rest) ∧ accessError off n = true) ∧
    (step s = .fault .hostProtocolViolation → s.busy = true ∧ ∃ off n v rest,
      ((s.inputs = .read off n :: rest ∧ off ≠ 4) ∨ s.inputs = .write off n v :: rest) ∧ accessError off n = false) ∧
    (step s = .fault .unwrittenDataRead →
      (∃ w i, s.pend = some w ∧ decode w = .ok i ∧ firstError i s = none ∧ dataWritten i s = false) ∨
      ∃ off n rest, s.inputs = .read off n :: rest ∧ ∃ k < n, s.mem.read (off + k) = none)

/-! ### GF(256) and Reed–Solomon (40_gf256_reed_solomon.md) -/

/-- R141, R146: GF_MUL leaves in RESULT the carry-less product reduced modulo 0x11D, and changes nothing else. -/
def Obligations.GfMulLeavesReducedProduct : Prop :=
  ∀ (s : State) (x y : Byte), ∃ t, exec (.gfMul x y) s = .next t ∧
    t.result.toNat = reduce11D (clProduct x y) ∧ t = { s with result := t.result, err := .ok, pend := none }

/-- R142: the laws of the field, and 2 is primitive. -/
def Obligations.GfMulIsFieldMultiplication : Prop :=
  (∀ a b : Byte, gfmul a b = gfmul b a) ∧ (∀ a b c : Byte, gfmul (gfmul a b) c = gfmul a (gfmul b c)) ∧
  (∀ a : Byte, gfmul a 1 = a ∧ gfmul a 0 = 0) ∧
  (∀ a b c : Byte, gfmul a (b ^^^ c) = gfmul a b ^^^ gfmul a c) ∧
  (∀ a b : Byte, gfmul a b = 0 → a = 0 ∨ b = 0) ∧
  (∀ i j : Nat, i < 255 → j < 255 → gfPow i = gfPow j → i = j) ∧ gfPow 255 = 1

/-- R143, R147, R51: RS_DIVISOR leaves in DIV the generator polynomial Π (x ⊕ 2^i), i < degree, without its leading 1, and
0 above; DEG takes the degree; nothing else changes. -/
def Obligations.RsDivisorBuildsGenerator : Prop :=
  ∀ (s : State) (d : Nat), 1 ≤ d → d ≤ 255 → ∃ t, exec (.rsDivisor d) s = .next t ∧
    t.deg.toNat = d ∧ 1 :: t.mem.bytes divBase d = generatorPoly d ∧
    (∀ j, d ≤ j → j < 256 → t.mem.read (divBase + j) = some 0) ∧
    (∀ off, inDiv off = false → t.mem.read off = s.mem.read off) ∧
    t = { s with deg := t.deg, mem := t.mem, err := .ok, pend := none }

/-- R144, R145, R148: RS_REMAINDER leaves in REM the remainder of D(x)·x^DEG by g(x) = x^DEG + DIV, and 0 above: some
quotient q has q·g = D·x^DEG ⊕ R. Nothing else changes. -/
def Obligations.RsRemainderDividesData : Prop :=
  ∀ (s : State) (off len : Nat) (data : List Byte), s.deg ≠ 0 → off + len ≤ 2956 →
    s.dataBytes off len = some data → ∃ t q r, exec (.rsRemainder off len) s = .next t ∧
      q.length = len ∧ r.length = s.deg.toNat ∧ polyMul q (1 :: s.mem.bytes divBase s.deg.toNat) = data ++ r ∧
      (∀ j < 256, t.mem.read (remBase + j) = some (r.getD j 0)) ∧
      (∀ a, inRem a = false → t.mem.read a = s.mem.read a) ∧
      t = { s with mem := t.mem, err := .ok, pend := none }

/-! ### Configuration and interleave (41_config_and_interleave.md) -/

/-- R176: what CONFIG writes and what it leaves. -/
def Obligations.ConfigStartsSymbol : Prop :=
  ∀ (s : State) (v : Nat) (e : Ecl), 1 ≤ v → v ≤ 40 → ∃ t, exec (.config v e) s = .next t ∧
    t.version.toNat = v ∧ t.ecl = e ∧ t.size.toNat = 4 * v + 17 ∧ t.nrc.toNat = rawDataModules v / 8 ∧
    t.nblk.toNat = numBlocks e v ∧ t.ecclen.toNat = eccPerBlock e v ∧
    t.ndc.toNat + t.ecclen.toNat * t.nblk.toNat = t.nrc.toNat ∧
    t.nshort.toNat + t.nrc.toNat % t.nblk.toNat = t.nblk.toNat ∧ t.sblen.toNat = t.nrc.toNat / t.nblk.toNat ∧
    (∀ x y, t.gridM.get x y = false ∧ t.gridF.get x y = false) ∧
    (∀ k < 3708, t.mem.read (cwBase + k) = some 0) ∧ (∀ off, inCw off = false → t.mem.read off = s.mem.read off) ∧
    (∀ i : Fin 8, t.pscore[i] = 0) ∧
    t = { s with
      version := t.version, ecl := t.ecl, size := t.size, nrc := t.nrc, nblk := t.nblk, ecclen := t.ecclen,
      ndc := t.ndc, nshort := t.nshort, sblen := t.sblen, gridM := t.gridM, gridF := t.gridF, mem := t.mem,
      pscore := t.pscore, funcDone := 0, trial := none, mask := none, bestPenalty := 0, phase := .configured,
      err := .ok, pend := none }

/-- R176's corner case: CONFIG twice gives the state of one CONFIG with the second operands. -/
def Obligations.SecondConfigWins : Prop :=
  ∀ (s t : State) (v v' : Nat) (e e' : Ecl), exec (.config v e) s = .next t → t.err = .ok → 1 ≤ v' → v' ≤ 40 →
    exec (.config v' e') t = exec (.config v' e') s

/-- R177, R179, R180: ECC_INTERLEAVE fills CW column by column: first the data bytes every block has, then the extra byte of
the long blocks, then the ECC bytes; DIV, DEG and REM hold the block divisor and the last block's ECC; PHASE is 3; nothing
else changes. -/
def Obligations.EccInterleaveFillsCodewords : Prop :=
  ∀ (s : State) (data : List Byte), Configured s → s.phase = .fixed → s.dataLen = s.ndc →
    s.dataBytes 0 s.ndc.toNat = some data → ∃ t, exec .eccInterleave s = .next t ∧
      (∀ j < s.layout.nblk, ∀ i < s.layout.shortData,
        t.mem.read (cwBase + (i * s.layout.nblk + j)) = some ((blockData s.layout data j).getD i 0)) ∧
      (∀ j, s.layout.nshort ≤ j → j < s.layout.nblk →
        t.mem.read (cwBase + (s.layout.shortData * s.layout.nblk + (j - s.layout.nshort))) =
          some ((blockData s.layout data j).getD s.layout.shortData 0)) ∧
      (∀ j < s.layout.nblk, ∀ i < s.layout.ecclen,
        t.mem.read (cwBase + (s.ndc.toNat + i * s.layout.nblk + j)) = some ((blockEcc s.layout data j).getD i 0)) ∧
      t.deg.toNat = s.ecclen.toNat ∧ 1 :: t.mem.bytes divBase s.ecclen.toNat = generatorPoly s.ecclen.toNat ∧
      (∀ j, s.ecclen.toNat ≤ j → j < 256 → t.mem.read (divBase + j) = some 0) ∧
      (∀ j < 256, t.mem.read (remBase + j) = some ((blockEcc s.layout data (s.layout.nblk - 1)).getD j 0)) ∧
      (∀ a, inDiv a = false → inRem a = false → a < cwBase ∨ cwBase + s.nrc.toNat ≤ a →
        t.mem.read a = s.mem.read a) ∧
      t = { s with mem := t.mem, deg := t.deg, phase := .ecc, err := .ok, pend := none }

/-! ### Function patterns (42_function_patterns.md) -/

/-- R201, R202: DRAW_TIMING makes row 6 and column 6 alternate, dark at even index, and marks them in F; nothing else
changes. -/
def Obligations.DrawTimingAlternates : Prop :=
  ∀ s : State, s.phase = .configured → s.funcDone = 0 → s.size.toNat ≤ 177 → ∃ t, exec .drawTiming s = .next t ∧
    (∀ x y, t.gridM.get x y = if (x = 6 ∧ y < s.size.toNat) ∨ (y = 6 ∧ x < s.size.toNat) then (x + y) % 2 == 0
      else s.gridM.get x y) ∧
    (∀ x y, t.gridF.get x y = if (x = 6 ∧ y < s.size.toNat) ∨ (y = 6 ∧ x < s.size.toNat) then true
      else s.gridF.get x y) ∧
    t = { s with gridM := t.gridM, gridF := t.gridF, funcDone := 0b00001, err := .ok, pend := none }

/-- R203, R204: DRAW_FINDERS draws the three finders, dark unless the distance from the centre is 2 or 4, clipped to the
symbol; nothing else changes. -/
def Obligations.DrawFindersAtThreeCorners : Prop :=
  ∀ s : State, s.phase = .configured → s.funcDone = 0b00001 → 21 ≤ s.size.toNat → s.size.toNat ≤ 177 →
    ∃ t, exec .drawFinders s = .next t ∧
      (∀ x y, t.gridM.get x y =
        if x < s.size.toNat ∧ y < s.size.toNat ∧ finderDistance s.size.toNat x y ≤ 4 then
          decide (finderDistance s.size.toNat x y ≠ 2 ∧ finderDistance s.size.toNat x y ≠ 4)
        else s.gridM.get x y) ∧
      (∀ x y, t.gridF.get x y =
        if x < s.size.toNat ∧ y < s.size.toNat ∧ finderDistance s.size.toNat x y ≤ 4 then true else s.gridF.get x y) ∧
      t = { s with gridM := t.gridM, gridF := t.gridF, funcDone := 0b00011, err := .ok, pend := none }

/-- R206, R207: DRAW_ALIGNMENT draws a 5 × 5 pattern at every pair of alignment positions but the finder corners, dark unless
the distance is 1; nothing else changes. -/
def Obligations.DrawAlignmentAtCentres : Prop :=
  ∀ s : State, Configured s → s.phase = .configured → s.funcDone = 0b00011 → ∃ t, exec .drawAlignment s = .next t ∧
    (∀ cx cy, isAlignCentre s.version.toNat cx cy → ∀ x y, cellDistance x y cx cy ≤ 2 →
      t.gridM.get x y = decide (cellDistance x y cx cy ≠ 1) ∧ t.gridF.get x y = true) ∧
    (∀ x y, (∀ cx cy, isAlignCentre s.version.toNat cx cy → 2 < cellDistance x y cx cy) →
      t.gridM.get x y = s.gridM.get x y ∧ t.gridF.get x y = s.gridF.get x y) ∧
    t = { s with gridM := t.gridM, gridF := t.gridF, funcDone := 0b00111, err := .ok, pend := none }

/-- R205: the alignment positions run from 6 to SIZE − 7 in `v div 7 + 2` positions, equally spaced after the first gap, and
no two closer than 12. -/
def Obligations.AlignmentPositionsAreSpaced : Prop :=
  alignPos 1 = [] ∧ ∀ v, 2 ≤ v → v ≤ 40 →
    (alignPos v).length = v / 7 + 2 ∧ (alignPos v).head? = some 6 ∧ (alignPos v).getLast? = some (symbolSize v - 7) ∧
    (∀ k, 1 ≤ k → k + 1 < v / 7 + 2 → (alignPos v).getD (k + 1) 0 = (alignPos v).getD k 0 + alignStep v) ∧
    ∀ k, k + 1 < v / 7 + 2 → (alignPos v).getD k 0 + 12 ≤ (alignPos v).getD (k + 1) 0

/-- R209, R210: DRAW_FORMAT m places the 15 bits of formatBits(ECL, m) twice and the dark module, marks the cells in F, and
sets its FUNC_DONE bit in PHASE 1 only; nothing else changes. -/
def Obligations.DrawFormatPlacesBits : Prop :=
  ∀ (s : State) (m : Fin 8), s.formatLegal = true → 21 ≤ s.size.toNat → s.size.toNat ≤ 177 →
    ∃ t, exec (.drawFormat (m.val : Int)) s = .next t ∧
      (∀ i < 15, t.gridM.get (formatCell i).1 (formatCell i).2 = (formatBits s.ecl m).getLsbD i ∧
        t.gridM.get (formatCell2 s.size.toNat i).1 (formatCell2 s.size.toNat i).2 = (formatBits s.ecl m).getLsbD i) ∧
      t.gridM.get 8 (s.size.toNat - 8) = true ∧
      (∀ x y, isFormatCell s.size.toNat x y → t.gridF.get x y = true) ∧
      (∀ x y, ¬isFormatCell s.size.toNat x y →
        t.gridM.get x y = s.gridM.get x y ∧ t.gridF.get x y = s.gridF.get x y) ∧
      t = { s with
        gridM := t.gridM, gridF := t.gridF, err := .ok, pend := none,
        funcDone := if s.phase = .configured then 0b01111 else s.funcDone }

/-- R208, R211: every format word is, before the XOR mask, its 5 data bits above a BCH(15,5) remainder for 0x537, and every
version word is the 6 bits of the version above a BCH(18,6) remainder for 0x1F25. -/
def Obligations.FormatAndVersionWordsAreCodewords : Prop :=
  (∀ (e : Ecl) (m : Fin 8),
    (formatBits e m ^^^ 0x5412#15) >>> 10 = (Ecl.formatCode e <<< 3) ||| BitVec.ofNat 15 m.val ∧
    [14, 13, 12, 11, 10].foldl (fun acc k => if acc.testBit k then acc ^^^ (0x537 <<< (k - 10)) else acc)
      (formatBits e m ^^^ 0x5412#15).toNat = 0) ∧
  ∀ v, 7 ≤ v → v ≤ 40 → (versionBits v).toNat >>> 12 = v ∧
    [17, 16, 15, 14, 13, 12].foldl (fun acc k => if acc.testBit k then acc ^^^ (0x1F25 <<< (k - 12)) else acc)
      (versionBits v).toNat = 0

/-- R211, R212, R213: DRAW_VERSION places the 18 bits of versionBits(VERSION) twice from version 7 on and draws nothing below;
it ends the sequence and enters PHASE 2; nothing else changes. -/
def Obligations.DrawVersionPlacesBits : Prop :=
  ∀ s : State, Configured s → s.phase = .configured → s.funcDone = 0b01111 → ∃ t, exec .drawVersion s = .next t ∧
    (7 ≤ s.version.toNat → ∀ i < 18,
      t.gridM.get (s.size.toNat - 11 + i % 3) (i / 3) = (versionBits s.version.toNat).getLsbD i ∧
      t.gridM.get (i / 3) (s.size.toNat - 11 + i % 3) = (versionBits s.version.toNat).getLsbD i) ∧
    (∀ x y, isVersionCell s.size.toNat s.version.toNat x y → t.gridF.get x y = true) ∧
    (∀ x y, ¬isVersionCell s.size.toNat s.version.toNat x y →
      t.gridM.get x y = s.gridM.get x y ∧ t.gridF.get x y = s.gridF.get x y) ∧
    t = { s with gridM := t.gridM, gridF := t.gridF, funcDone := 0b11111, phase := .fixed, err := .ok, pend := none }

/-- R200, R214: DRAW_FUNCTION_PATTERNS gives the state of the five single draws in order with DRAW_FORMAT 0. -/
def Obligations.FunctionPatternsAreTheFiveDraws : Prop :=
  ∀ s : State, s.phase = .configured → s.funcDone = 0 → ∃ t, exec .drawFunctionPatterns s = .next t ∧
    succeeds [.drawTiming, .drawFinders, .drawAlignment, .drawFormat 0, .drawVersion] s = some t ∧
    t = { s with gridM := t.gridM, gridF := t.gridF, funcDone := 0b11111, phase := .fixed, err := .ok, pend := none }

/-! ### Codeword placement (43_codeword_placement.md) -/

/-- R230: the scan visits every cell outside column 6 exactly once and no other. Its order: pairs of columns from the right
edge, those from column 6 on one column left; the first pair upward, then alternating; in each row the right cell first. -/
def Obligations.ScanVisitsEveryCellOnce : Prop :=
  ∀ v, 1 ≤ v → v ≤ 40 → (scan (symbolSize v)).Nodup ∧ (scan (symbolSize v)).length = symbolSize v * (symbolSize v - 1) ∧
    (∀ x y, (x, y) ∈ scan (symbolSize v) ↔ x < symbolSize v ∧ y < symbolSize v ∧ x ≠ 6) ∧
    ∀ p < (symbolSize v - 1) / 2, ∀ k < symbolSize v, ∀ j < 2,
      (scan (symbolSize v))[2 * (symbolSize v * p + k) + j]? =
        some (pairRight (symbolSize v) p - j, pairRow (symbolSize v) p k)

/-- R231, R232, R233: DRAW_CODEWORDS writes stream bit i (MSB first) into the i-th data cell of the scan for i < 8·NRC, and no
other cell of M; nothing else changes but PHASE. -/
def Obligations.DrawCodewordsFollowsScan : Prop :=
  ∀ s : State, Configured s → s.phase = .ecc → ∃ t, exec .drawCodewords s = .next t ∧
    (∀ i c, (dataCells s.gridF s.size.toNat)[i]? = some c → t.gridM.get c.1 c.2 =
      if i < 8 * s.nrc.toNat then ((s.mem.read (cwBase + i / 8)).getD 0).getLsbD (7 - i % 8)
      else s.gridM.get c.1 c.2) ∧
    (∀ x y, (x, y) ∉ dataCells s.gridF s.size.toNat → t.gridM.get x y = s.gridM.get x y) ∧
    t = { s with gridM := t.gridM, phase := .data, err := .ok, pend := none }

/-! ### Masks and penalty (44_masking_and_penalty.md) -/

/-- R251, R252: APPLY_MASK flips exactly the data cells where the predicate holds; it turns PHASE 4 into 5 with TRIAL = m, and
5 with TRIAL = m back into 4; nothing else changes. The predicate (R250) has R264's values on the corner x, y < 6, and repeats
every 6 columns and every 6 rows (every 4 rows for mask 4), which determines it everywhere. -/
def Obligations.ApplyMaskFlipsDataCells : Prop :=
  (∀ (s : State) (m : Fin 8), s.size.toNat ≤ 177 → s.phase = .data ∨ (s.phase = .trial ∧ s.trial = some m) →
    ∃ t, exec (.applyMask (m.val : Int)) s = .next t ∧
      (∀ x y, t.gridM.get x y =
        if x < s.size.toNat ∧ y < s.size.toNat ∧ s.gridF.get x y = false ∧ maskPred m x y = true then !s.gridM.get x y
        else s.gridM.get x y) ∧
      t = { s with
        gridM := t.gridM, err := .ok, pend := none,
        phase := if s.phase = .data then .trial else .data,
        trial := if s.phase = .data then some m else none }) ∧
  ∀ (m : Fin 8),
    (∀ x < 6, ∀ y < 6, maskPred m x y = maskCornerAt m.val x y) ∧
    ∀ x y, maskPred m (x + 6) y = maskPred m x y ∧ maskPred m x (y + if m = 4 then 4 else 6) = maskPred m x y

/-- R252: APPLY_MASK m twice leaves M, PHASE and TRIAL as they were. -/
def Obligations.ApplyMaskTwiceRestores : Prop :=
  ∀ (s : State) (m : Fin 8), s.phase = .data → s.trial = none →
    succeeds [.applyMask (m.val : Int), .applyMask (m.val : Int)] s = some { s with err := .ok, pend := none }

/-- R253, R256 to R261: PENALTY leaves the score in RESULT and changes nothing else. The score is the sum of N1 and N3 of every
row and column, 3 for every 2 × 2 window of one colour, and 10 for every step of the imbalance |20·D − 10·T|; it is at most
2703778, so it fits, and it does not depend on F (R264). -/
def Obligations.PenaltyFitsResult : Prop :=
  ∀ s : State, s.phase ≠ .idle → s.size.toNat ≤ 177 → s.penalty ≤ 2703778 ∧
    (∀ f : Grid, ({ s with gridF := f } : State).penalty = s.penalty) ∧
    (0 < s.size.toNat → ∃ k,
      isImbalanceStep s.params.imbalanceRule
        (20 * (darkCells s.gridM s.size.toNat : Int) - 10 * ((s.size.toNat * s.size.toNat : Nat) : Int)).natAbs
        (s.size.toNat * s.size.toNat) k ∧
      s.penalty =
        ((List.range s.size.toNat).map fun y =>
          linePoints s.params.flankRule s.size.toNat (s.gridM.row s.size.toNat y)).sum +
        ((List.range s.size.toNat).map fun x =>
          linePoints s.params.flankRule s.size.toNat (s.gridM.column s.size.toNat x)).sum +
        3 * uniformWindowCount s.gridM s.size.toNat + 10 * k) ∧
    ∃ t, exec .penalty s = .next t ∧ t.result.toNat = s.penalty ∧
      t = { s with result := t.result, err := .ok, pend := none }

/-- R254 to R257: the score of a line is 3 + (L − 5) for every maximal run of L ≥ 5 equal cells (N1), and 40 for every
finder-like sequence of runs, counted over the line with its light borders under the reading of N3_FLANK_RULE (N3). -/
def Obligations.LineScoreCountsRuns : Prop :=
  ∀ (rule : FlankRule) (size : Nat) (line : List Bool), lineScore rule size line = linePoints rule size line

/-- R259: the value of the step count under each reading of N4_RULE. FLOOR rounds a / T down; CEIL_MINUS_ONE is a / T rounded
up, less 1, and 0 at a = 0. The two differ exactly at the positive multiples of T, where CEIL_MINUS_ONE is one less. -/
def Obligations.ImbalanceReadingsAgree : Prop :=
  ∀ a total : Nat, 0 < total →
    (∀ k, imbalanceSteps .floor a total = k ↔ total * k ≤ a ∧ a < total * (k + 1)) ∧
    (0 < a → ∀ k, imbalanceSteps .ceilMinusOne a total = k ↔ total * k < a ∧ a ≤ total * (k + 1)) ∧
    imbalanceSteps .ceilMinusOne 0 total = 0 ∧
    (imbalanceSteps .ceilMinusOne a total ≠ imbalanceSteps .floor a total ↔ 0 < a ∧ total ∣ a) ∧
    (0 < a → total ∣ a → imbalanceSteps .ceilMinusOne a total + 1 = imbalanceSteps .floor a total)

/-- R263: FINALIZE with a fixed mask flips the data cells of the mask, draws format and version bits, sets MASK, clears F and
enters PHASE 6; PSCORE and BEST_PENALTY and everything else are unchanged. -/
def Obligations.FinalizeAppliesFixedMask : Prop :=
  ∀ (s : State) (m : Fin 8), Configured s → s.phase = .data → ∃ t, exec (.finalize (m.val : Int)) s = .next t ∧
    (∀ i < 15, t.gridM.get (formatCell i).1 (formatCell i).2 = (formatBits s.ecl m).getLsbD i ∧
      t.gridM.get (formatCell2 s.size.toNat i).1 (formatCell2 s.size.toNat i).2 = (formatBits s.ecl m).getLsbD i) ∧
    t.gridM.get 8 (s.size.toNat - 8) = true ∧
    (7 ≤ s.version.toNat → ∀ i < 18,
      t.gridM.get (s.size.toNat - 11 + i % 3) (i / 3) = (versionBits s.version.toNat).getLsbD i ∧
      t.gridM.get (i / 3) (s.size.toNat - 11 + i % 3) = (versionBits s.version.toNat).getLsbD i) ∧
    (∀ x y, ¬isFormatCell s.size.toNat x y → ¬isVersionCell s.size.toNat s.version.toNat x y → t.gridM.get x y =
      if x < s.size.toNat ∧ y < s.size.toNat ∧ s.gridF.get x y = false ∧ maskPred m x y = true then !s.gridM.get x y
      else s.gridM.get x y) ∧
    (∀ x y, t.gridF.get x y = false) ∧
    t = { s with gridM := t.gridM, gridF := t.gridF, mask := some m, phase := .final, err := .ok, pend := none }

/-- R262, R263: FINALIZE −1 leaves in PSCORE the eight trial scores, in MASK the least index with the least score and in
BEST_PENALTY that score; apart from PSCORE and BEST_PENALTY the state is that of FINALIZE with the chosen mask. -/
def Obligations.FinalizeChoosesLeastPenalty : Prop :=
  ∀ s : State, Configured s → s.phase = .data → PatternsInPlace s → ∃ t b, exec (.finalize (-1)) s = .next t ∧
    t.mask = some b ∧ t.phase = .final ∧ t.bestPenalty.toNat = (trialOn b s).penalty ∧
    (∀ i : Fin 8, t.pscore[i].toNat = (trialOn i s).penalty) ∧
    (∀ i : Fin 8, (trialOn b s).penalty ≤ (trialOn i s).penalty) ∧
    (∀ i : Fin 8, i < b → (trialOn b s).penalty < (trialOn i s).penalty) ∧
    exec (.finalize (b.val : Int)) s = .next { t with pscore := s.pscore, bestPenalty := s.bestPenalty }

/-- R264: after automatic selection the score of the finished symbol is BEST_PENALTY, and PENALTY reports it. -/
def Obligations.FinishedScoreIsBestPenalty : Prop :=
  ∀ s : State, Configured s → s.phase = .data → PatternsInPlace s → ∃ t u, exec (.finalize (-1)) s = .next t ∧
    t.penalty = t.bestPenalty.toNat ∧ exec .penalty t = .next u ∧ u.result = t.bestPenalty

/-- R120: TRIAL m by hand leaves PHASE 4, the score of trial m in RESULT, every cell but the format cells as it was, and in
both copies of the format cells the format bits of mask m, the dark module dark. -/
def Obligations.ManualTrialScoresMask : Prop :=
  ∀ (s : State) (m : Fin 8), Configured s → s.phase = .data → s.trial = none → PatternsInPlace s →
    ∃ u, succeeds [.applyMask (m.val : Int), .drawFormat (m.val : Int), .penalty, .applyMask (m.val : Int)] s = some u ∧
      u.result.toNat = (trialOn m s).penalty ∧
      (∀ x y, ¬isFormatCell s.size.toNat x y → u.gridM.get x y = s.gridM.get x y) ∧
      (∀ i < 15, u.gridM.get (formatCell i).1 (formatCell i).2 = (formatBits s.ecl m).getLsbD i ∧
        u.gridM.get (formatCell2 s.size.toNat i).1 (formatCell2 s.size.toNat i).2 = (formatBits s.ecl m).getLsbD i) ∧
      u.gridM.get 8 (s.size.toNat - 8) = true ∧
      u = { s with gridM := u.gridM, result := u.result, err := .ok, pend := none }

/-! ### Pipeline and query (45_pipeline_and_query.md) -/

/-- R290: ENCODE m leaves exactly the state of DRAW_FUNCTION_PATTERNS; ECC_INTERLEAVE; DRAW_CODEWORDS; FINALIZE m, in PHASE 6
with every FUNC_DONE bit set and a concrete MASK. -/
def Obligations.EncodeIsThePipeline : Prop :=
  ∀ (s : State) (m : Int), s.phase = .configured → s.funcDone = 0 → -1 ≤ m → m ≤ 7 → s.dataLen = s.ndc →
    dataWritten (.encodeSymbol m) s = true → ∃ t, exec (.encodeSymbol m) s = .next t ∧
      succeeds [.drawFunctionPatterns, .eccInterleave, .drawCodewords, .finalize m] s = some t ∧
      (0 ≤ m → (maskCode t.mask : Int) = m ∧ t.pscore = s.pscore ∧ t.bestPenalty = s.bestPenalty) ∧
      t.mask.isSome = true ∧
      t = { s with
        gridM := t.gridM, gridF := Grid.clear, mem := t.mem, deg := t.deg, mask := t.mask, pscore := t.pscore,
        bestPenalty := t.bestPenalty, funcDone := 0b11111, phase := .final, err := .ok, pend := none }

/-- R291: GET_MODULE leaves the module in RESULT, 0 for a coordinate outside [0, SIZE), in every phase; nothing else
changes. -/
def Obligations.GetModuleReadsMatrix : Prop :=
  ∀ (s : State) (x y : Int), ∃ t, exec (.getModule x y) s = .next t ∧
    (∀ a b : Nat, x = a → y = b → a < s.size.toNat → b < s.size.toNat → t.result.toNat = (s.gridM.get a b).toNat) ∧
    (x < 0 ∨ (s.size.toNat : Int) ≤ x ∨ y < 0 ∨ (s.size.toNat : Int) ≤ y → t.result = 0) ∧
    t = { s with result := t.result, err := .ok, pend := none }

/-! ### The host interface (10_state.md, 20_memory.md, 70_reset_and_hazards.md) -/

/-- R34: the fields of STATUS and nothing else. -/
def Obligations.StatusFieldsAreInPlace : Prop :=
  ∀ s : State, (statusWord s).getLsbD 0 = s.busy ∧ (statusWord s).extractLsb' 1 3 = 0 ∧
    ((statusWord s).extractLsb' 4 4).toNat = s.err.code ∧ ((statusWord s).extractLsb' 8 3).toNat = s.phase.code ∧
    (statusWord s).extractLsb' 11 5 = s.funcDone ∧ ((statusWord s).extractLsb' 16 4).toNat = maskCode s.trial ∧
    (statusWord s).extractLsb' 20 12 = 0

/-- R32, R81, R86, R90: what a read of each register returns while no command is pending, and what a read of the byte arrays
returns: the byte of an 8-bit read, and the four bytes of an aligned 32-bit read with the lowest offset in bits [7:0]. DIV, REM
and CW hold a value at every offset. -/
def Obligations.RegistersReadAsMapped : Prop :=
  ∀ s : State, s.pend = none →
    (hostRead 0x00 4 s = .ok 0 ∧ hostRead 0x04 4 s = .ok (statusWord s) ∧ hostRead 0x08 4 s = .ok s.result ∧
      hostRead 0x0C 4 s = .ok (s.version.setWidth 32) ∧ hostRead 0x10 4 s = .ok (BitVec.ofNat 32 s.ecl.ordinal) ∧
      hostRead 0x14 4 s = .ok (s.size.setWidth 32) ∧ hostRead 0x18 4 s = .ok (BitVec.ofNat 32 (maskCode s.mask)) ∧
      hostRead 0x1C 4 s = .ok (s.dataLen.setWidth 32) ∧ hostRead 0x20 4 s = .ok (s.ndc.setWidth 32) ∧
      hostRead 0x24 4 s = .ok (s.nrc.setWidth 32) ∧ hostRead 0x28 4 s = .ok (s.nblk.setWidth 32) ∧
      hostRead 0x2C 4 s = .ok (s.ecclen.setWidth 32) ∧ hostRead 0x30 4 s = .ok (s.deg.setWidth 32) ∧
      hostRead 0x34 4 s = .ok s.bestPenalty ∧ hostRead 0x38 4 s = .ok (s.nshort.setWidth 32) ∧
      hostRead 0x3C 4 s = .ok (s.sblen.setWidth 32) ∧
      ∀ i : Fin 8, hostRead (0x40 + 4 * i.val) 4 s = .ok s.pscore[i]) ∧
    (∀ off, inDiv off = true ∨ inRem off = true ∨ inCw off = true → ∃ b, s.mem.read off = some b) ∧
    (∀ off b, inArray off = true → s.mem.read off = some b → hostRead off 1 s = .ok (b.setWidth 32)) ∧
    ∀ (off : Nat) (b0 b1 b2 b3 : Byte), inArray off = true → off % 4 = 0 →
      s.mem.read off = some b0 → s.mem.read (off + 1) = some b1 → s.mem.read (off + 2) = some b2 →
      s.mem.read (off + 3) = some b3 → hostRead off 4 s = .ok (b3 ++ b2 ++ b1 ++ b0)

/-- R86: a read returns what `hostRead` says and changes nothing but the model's log of reads (log 3). -/
def Obligations.ReadsHaveNoSideEffect : Prop :=
  ∀ (s t : State) (off n : Nat), takeInput (.read off n) s = .next t →
    ∃ v, hostRead off n s = .ok v ∧ hostRead off n t = .ok v ∧ t = { s with readLog := v :: s.readLog }

/-- R85: with no command pending a write to a read-only location changes nothing, and the unnamed bits of DATA_LEN ignore
writes. -/
def Obligations.ReadOnlyWritesAreIgnored : Prop :=
  ∀ (s : State) (v : Word), s.pend = none →
    (∀ off n, accessError off n = false → off ≠ 0x00 → off ≠ 0x1C → inData off = false → hostWrite off n v s = .ok s) ∧
    hostWrite 0x1C 4 v s = .ok { s with dataLen := v.setWidth 12 }

/-- R35: a 32-bit write of CMD while BUSY = 0 records the word and sets BUSY; CMD reads 0; a write of another width is an
access error, and a write while BUSY = 1 a protocol violation. -/
def Obligations.CmdWriteStartsCommand : Prop :=
  ∀ (s : State) (w : Word),
    (s.busy = false → hostWrite 0x00 4 w s = .ok { s with pend := some w } ∧ hostRead 0x00 4 s = .ok 0) ∧
    ({ s with pend := some w } : State).busy = true ∧
    (s.busy = true → hostWrite 0x00 4 w s = .error .hostProtocolViolation) ∧
    ∀ n, n ≠ 4 → hostWrite 0x00 n w s = .error .hostAccessError

/-- R81, R61, R90: an aligned word written to DATA is its four bytes, least significant at the lowest offset; it reads back,
byte by byte and as a word. An 8-bit write of a DATA byte stores bits [7:0] of the value, which read back. Either sets the
written bits of its own bytes only: every other byte of the arrays, and everything else, is unchanged. -/
def Obligations.DataWordsAreLittleEndian : Prop :=
  (∀ (s : State) (off : Nat) (v : Word), s.pend = none → off % 4 = 0 → 0x1000 ≤ off → off + 4 ≤ 0x1B8C →
    ∃ t, hostWrite off 4 v s = .ok t ∧ hostRead off 4 t = .ok v ∧
      (∀ i < 4, hostRead (off + i) 1 t = .ok ((v >>> (8 * i)) &&& 0xFF)) ∧
      (∀ a, a < off ∨ off + 4 ≤ a → t.mem.read a = s.mem.read a) ∧ t = { s with mem := t.mem }) ∧
  ∀ (s : State) (off : Nat) (v : Word), s.pend = none → 0x1000 ≤ off → off < 0x1B8C →
    ∃ t, hostWrite off 1 v s = .ok t ∧ t.mem.read off = some (v.setWidth 8) ∧ hostRead off 1 t = .ok (v &&& 0xFF) ∧
      (∀ a, a ≠ off → t.mem.read a = s.mem.read a) ∧ t = { s with mem := t.mem }

/-- R89: a host read of DATA faults exactly when one of its bytes was never written. -/
def Obligations.UnwrittenDataReadFaults : Prop :=
  ∀ (s : State) (off n : Nat), s.pend = none → accessError off n = false → inData off = true →
    (hostRead off n s = .error .unwrittenDataRead ↔ ∃ k < n, s.mem.read (off + k) = none) ∧
    ((∀ k < n, s.mem.read (off + k) ≠ none) → ∃ v, hostRead off n s = .ok v)

/-- R82, R83, R84: exactly the aligned words of the mapped ranges and the bytes of the arrays can be accessed; any other access
is an access error, which the model treats as a fault. -/
def Obligations.AccessErrorsAreExact : Prop :=
  ∀ (off n : Nat) (v : Word) (s : State),
    (accessError off n = false ↔
      (n = 4 ∧ off % 4 = 0 ∧ off ≤ 0x3FFF ∧ ¬(0x60 ≤ off ∧ off ≤ 0xFF) ∧ ¬(0x300 ≤ off ∧ off ≤ 0xFFF) ∧
        ¬(0x1B8C ≤ off ∧ off ≤ 0x1FFF) ∧ ¬(0x2E7C ≤ off ∧ off ≤ 0x3FFF)) ∨
      (n = 1 ∧ ((0x100 ≤ off ∧ off ≤ 0x2FF) ∨ (0x1000 ≤ off ∧ off ≤ 0x1B8B) ∨ (0x2000 ≤ off ∧ off ≤ 0x2E7B)))) ∧
    (accessError off n = true →
      hostRead off n s = .error .hostAccessError ∧ hostWrite off n v s = .error .hostAccessError)

/-- R347: while a command is pending the host may only read STATUS, which then shows BUSY = 1; any other access is a protocol
violation. -/
def Obligations.BusyAllowsOnlyStatusReads : Prop :=
  ∀ (s : State) (w v : Word) (off n : Nat), s.pend = some w →
    (∃ st, hostRead 0x04 4 s = .ok st ∧ st.getLsbD 0 = true) ∧
    (accessError off n = false → hostWrite off n v s = .error .hostProtocolViolation ∧
      (off ≠ 0x04 → hostRead off n s = .error .hostProtocolViolation))

/-- R97: a launch with more than one host is refused with the fault TwoHosts. -/
def Obligations.TwoHostsAreRefused : Prop :=
  ∀ (s : State) (p q : List Input) (rest : List (List Input)), step (launch (p :: q :: rest) s) = .fault .twoHosts

/-- R340: what reset leaves, and that the platform's reset input gives it from every state, a pending command discarded. The
model's own fields are kept (log 15). -/
def Obligations.ResetSetsEveryValue : Prop :=
  ∀ s : State, ∃ t, takeInput .reset s = .next t ∧ statusWord t = 0x000F0000 ∧ t.result = 0 ∧ t.version = 0 ∧
    t.ecl = .low ∧ t.size = 0 ∧ t.dataLen = 0 ∧ t.ndc = 0 ∧ t.nrc = 0 ∧ t.nblk = 0 ∧ t.ecclen = 0 ∧ t.deg = 0 ∧
    t.bestPenalty = 0 ∧ t.nshort = 0 ∧ t.sblen = 0 ∧ maskCode t.mask = 0xF ∧ (∀ i : Fin 8, t.pscore[i] = 0) ∧
    (∀ j < 256, t.mem.read (divBase + j) = some 0 ∧ t.mem.read (remBase + j) = some 0) ∧
    (∀ k < 3708, t.mem.read (cwBase + k) = some 0) ∧ (∀ k < 2956, t.mem.read (dataBase + k) = none) ∧
    (∀ x y, t.gridM.get x y = false ∧ t.gridF.get x y = false) ∧ t.pend = none ∧
    t = { State.reset with
      params := s.params, hosts := s.hosts, inputs := s.inputs, sched := s.sched, readLog := s.readLog }

/-! ### Invariants -/

/-- Every step keeps the invariant: canonical arrays, registers that belong to VERSION and ECL, FUNC_DONE, TRIAL and MASK that
fit PHASE (R33, R34, R40), zero tails of DIV and CW (R51, R54) and light cells outside the symbol (R55). -/
def Obligations.StepKeepsInvariant : Prop := ∀ s t : State, Inv s → step s = .next t → Inv t

/-- R56, R200, R213: every step keeps F the exact record of the function cells drawn since CONFIG, and clears it at the end;
and every step keeps the format cells in F, and the version cells in F and with their bits in M, throughout PHASE 2 to 5. -/
def Obligations.StepKeepsShadowExact : Prop :=
  (∀ s t : State, Inv s → ShadowExact s → step s = .next t → ShadowExact t) ∧
  ∀ s t : State, Inv s → ShadowExact s → PatternsKept s → step s = .next t → PatternsKept t

/-- The invariants hold after reset. -/
def Obligations.ResetMeetsInvariants : Prop :=
  Inv State.reset ∧ ShadowExact State.reset ∧ PatternsKept State.reset

/-- Canonical arrays that read the same at every offset are equal data. -/
def Obligations.CanonicalArraysAreDeterminedByReads : Prop :=
  ∀ m m' : Memory, m.wf = true → m'.wf = true → (∀ off, m.read off = m'.read off) → m = m'
end

