-- ==== Sys2Proof/Laws/Decode.lean ====
section
/-! SUPPORT. The fields of a packed word, and the operand images. -/
namespace Sys2Proof

@[simp] theorem opField_packWord (op : Byte) (a b : BitVec 12) : opField (packWord op a b) = op := by
  apply BitVec.eq_of_getLsbD_eq
  intro i hi
  have h1 : i < 32 := by omega
  have h2 : i < 20 := by omega
  simp [opField, packWord, hi, h1, h2]

@[simp] theorem aField_packWord (op : Byte) (a b : BitVec 12) : aField (packWord op a b) = a := by
  apply BitVec.eq_of_getLsbD_eq
  intro i hi
  have h1 : 8 + i < 32 := by omega
  have h2 : 8 + i < 20 := by omega
  simp [aField, packWord, hi, h1, h2]

@[simp] theorem bField_packWord (op : Byte) (a b : BitVec 12) : bField (packWord op a b) = b := by
  apply BitVec.eq_of_getLsbD_eq
  intro i hi
  have h1 : 20 + i < 32 := by omega
  have h3 : op.getLsbD (20 + i) = false := BitVec.getLsbD_of_ge _ _ (by omega)
  have h4 : a.getLsbD (20 + i - 8) = false := BitVec.getLsbD_of_ge _ _ (by omega)
  simp [bField, packWord, hi, h1, h3, h4]

/-- The fields of an encoded command. -/
theorem fields_encode (i : Instr) :
    opField (encode i) = opcodeOf i ∧ aField (encode i) = aOperand i ∧ bField (encode i) = bOperand i := by
  simp [encode]

@[simp] theorem u8Of_setWidth (x : Byte) : u8Of (x.setWidth 12) = x := by
  apply BitVec.eq_of_getLsbD_eq
  intro i hi
  simp [u8Of, hi]
  omega

@[simp] theorem isU8_setWidth (x : Byte) : isU8 (x.setWidth 12) = true := by
  simp only [isU8, beq_iff_eq]
  apply BitVec.eq_of_getLsbD_eq
  intro i hi
  simp

end Sys2Proof
end

