-- ==== Sys2Proof/Laws/Grid.lean ====
section
/-! SUPPORT. Reading a grid after each grid operation, and what a list of draws does to M and F. -/
namespace Sys2Proof.Machine

theorem Grid.index_inj {x y a b : Nat} (hx : x < 177) (ha : a < 177) : 177 * y + x = 177 * b + a ↔ x = a ∧ y = b := by
  omega

theorem Grid.get_of_lt (g : Grid) {x y : Nat} (hx : x < 177) (hy : y < 177) : g.get x y = g.getLsbD (177 * y + x) := by
  simp [Grid.get, hx, hy]

theorem Grid.get_of_not_lt (g : Grid) {x y : Nat} (h : ¬(x < 177 ∧ y < 177)) : g.get x y = false := by
  unfold Grid.get
  by_cases hx : x < 177
  · by_cases hy : y < 177
    · exact absurd ⟨hx, hy⟩ h
    · simp [hy]
  · simp [hx]

/-- Two grids with the same cells are equal. -/
theorem Grid.ext_get {g h : Grid} (H : ∀ x y, g.get x y = h.get x y) : g = h := by
  apply BitVec.eq_of_getLsbD_eq
  intro i hi
  have hi' : i < 177 * 177 := hi
  have hx : i % 177 < 177 := Nat.mod_lt _ (by decide)
  have hy : i / 177 < 177 := by omega
  have := H (i % 177) (i / 177)
  rwa [Grid.get_of_lt _ hx hy, Grid.get_of_lt _ hx hy, Nat.div_add_mod] at this

@[simp] theorem Grid.get_clear (x y : Nat) : Grid.clear.get x y = false := by
  simp [Grid.get, Grid.clear]

theorem Grid.getLsbD_cell {x y a b : Nat} (hx : x < 177) (_hy : y < 177) (ha : a < 177) (hb : b < 177) :
    (Grid.cell x y).getLsbD (177 * b + a) = (decide (a = x) && decide (b = y)) := by
  have hlt : 177 * b + a < 177 * 177 := by omega
  rw [Grid.cell, BitVec.getLsbD_shiftLeft, decide_eq_true hlt, Bool.true_and, BitVec.getLsbD_one, Bool.eq_iff_iff]
  simp only [Bool.and_eq_true, Bool.not_eq_true', decide_eq_true_eq, decide_eq_false_iff_not, Nat.not_lt]
  omega

/-- Reading after writing one cell. -/
theorem Grid.get_set (g : Grid) (x y : Nat) (d : Bool) (a b : Nat) :
    (g.set x y d).get a b = if a = x ∧ b = y ∧ x < 177 ∧ y < 177 then d else g.get a b := by
  unfold Grid.set
  by_cases h : x < 177 ∧ y < 177
  · by_cases hab : a < 177 ∧ b < 177
    · have hc := Grid.getLsbD_cell h.1 h.2 hab.1 hab.2
      rw [if_pos h, Grid.get_of_lt _ hab.1 hab.2, Grid.get_of_lt g hab.1 hab.2]
      by_cases hxy : a = x ∧ b = y
      · obtain ⟨rfl, rfl⟩ := hxy
        have hp : a = a ∧ b = b ∧ a < 177 ∧ b < 177 := ⟨rfl, rfl, h⟩
        rw [if_pos hp]
        cases d <;> simp [hc]
      · have hf : (decide (a = x) && decide (b = y)) = false := by simpa using hxy
        have hn : ¬(a = x ∧ b = y ∧ x < 177 ∧ y < 177) := fun hh => hxy ⟨hh.1, hh.2.1⟩
        rw [if_neg hn]
        cases d <;> simp [hc, hf, -Bool.and_eq_false_imp]
    · rw [Grid.get_of_not_lt _ hab, Grid.get_of_not_lt _ hab, if_neg]
      rintro ⟨rfl, rfl, hh⟩
      exact hab hh
  · rw [if_neg h, if_neg (fun hh => h hh.2.2)]

theorem Grid.get_xor (g h : Grid) (x y : Nat) : Grid.get (g ^^^ h) x y = ((g.get x y) ^^ (h.get x y)) := by
  unfold Grid.get
  by_cases hx : x < 177 <;> by_cases hy : y < 177 <;> simp [hx, hy]

theorem Grid.testBit_packBits (f : Nat → Bool) (n i : Nat) : (Grid.packBits f n).testBit i = (decide (i < n) && f i) := by
  induction n with
  | zero => simp [Grid.packBits]
  | succ n ih =>
    rw [Grid.packBits, Nat.testBit_or, ih, Nat.testBit_shiftLeft]
    rcases Nat.lt_trichotomy i n with h | h | h
    · have h1 : ¬ n ≤ i := by omega
      simp [h, Nat.lt_succ_of_lt h, h1]
    · subst h
      cases f i <;> simp
    · have : i - n ≠ 0 := by omega
      have h1 : ¬ i < n := by omega
      have h2 : ¬ i < n + 1 := by omega
      have h3 : (1 : Nat).testBit (i - n) = false := by
        rw [Nat.testBit_one_eq_true_iff_self_eq_zero.not.mpr this |> Bool.eq_false_iff.mpr]
      cases f n <;> simp [h1, h2, h3]

theorem Grid.testBit_packRows (f : Nat → Nat → Bool) {w : Nat} (hw : w ≤ 177) (n : Nat) {x : Nat} (hx : x < 177) (y : Nat) :
    (Grid.packRows f w n).testBit (177 * y + x) = (decide (y < n) && (decide (x < w) && f x y)) := by
  induction n with
  | zero => simp [Grid.packRows]
  | succ n ih =>
    rw [Grid.packRows, Nat.testBit_or, ih, Nat.testBit_shiftLeft, Grid.testBit_packBits]
    rcases Nat.lt_trichotomy y n with h | h | h
    · have h1 : ¬ 177 * n ≤ 177 * y + x := by omega
      simp [h, Nat.lt_succ_of_lt h, h1]
    · subst h
      have h1 : 177 * y + x - 177 * y = x := by omega
      simp [h1]
    · have h1 : ¬ y < n := by omega
      have h2 : ¬ y < n + 1 := by omega
      have h3 : ¬ 177 * y + x - 177 * n < w := by omega
      simp [h1, h2, h3]

/-- The cells of a tabulated grid. -/
theorem Grid.get_ofCells (size : Nat) (f : Nat → Nat → Bool) (x y : Nat) :
    (Grid.ofCells size f).get x y = (decide (x < min size 177 ∧ y < min size 177) && f x y) := by
  by_cases h : x < 177 ∧ y < 177
  · rw [Grid.get_of_lt _ h.1 h.2, Grid.ofCells, BitVec.getLsbD_ofNat, Grid.testBit_packRows f (Nat.min_le_right _ _) _ h.1]
    have : 177 * y + x < 177 * 177 := by omega
    by_cases h1 : x < min size 177 <;> by_cases h2 : y < min size 177 <;> simp [h1, h2, this]
  · rw [Grid.get_of_not_lt _ h]
    have : ¬(x < min size 177 ∧ y < min size 177) := fun hh => h ⟨by omega, by omega⟩
    rw [decide_eq_false this, Bool.false_and]

@[simp] theorem Grid.length_row (g : Grid) (size y : Nat) : (g.row size y).length = size := by simp [Grid.row]
@[simp] theorem Grid.length_column (g : Grid) (size x : Nat) : (g.column size x).length = size := by simp [Grid.column]

/-! ### Draws -/

@[simp] theorem drawAll_nil (c : Canvas) : drawAll [] c = c := rfl

@[simp] theorem drawAll_cons (w : ModuleWrite) (ws : List ModuleWrite) (c : Canvas) :
    drawAll (w :: ws) c = drawAll ws (setFunctionModule c w) := rfl

theorem drawAll_append (us ws : List ModuleWrite) (c : Canvas) : drawAll (us ++ ws) c = drawAll ws (drawAll us c) := by
  simp [drawAll, List.foldl_append]

/-- `w` writes the cell (x, y) of the array. -/
def ModuleWrite.hits (w : ModuleWrite) (x y : Nat) : Bool := decide (x = w.x ∧ y = w.y ∧ w.x < 177 ∧ w.y < 177)

/-- F after draws: the old cells and every cell written. -/
theorem drawAll_f (ws : List ModuleWrite) (c : Canvas) (x y : Nat) :
    (drawAll ws c).f.get x y = (c.f.get x y || ws.any (·.hits x y)) := by
  induction ws generalizing c with
  | nil => simp
  | cons w ws ih =>
    rw [drawAll_cons, ih]
    simp only [setFunctionModule, Grid.get_set, List.any_cons, ModuleWrite.hits]
    by_cases h : x = w.x ∧ y = w.y ∧ w.x < 177 ∧ w.y < 177 <;> simp [h]

/-- M after draws: the last write of a cell decides. -/
theorem drawAll_m (ws : List ModuleWrite) (c : Canvas) (x y : Nat) :
    (drawAll ws c).m.get x y = ((ws.reverse.find? (·.hits x y)).map ModuleWrite.d).getD (c.m.get x y) := by
  induction ws generalizing c with
  | nil => simp
  | cons w ws ih =>
    rw [drawAll_cons, ih, List.reverse_cons, List.find?_append]
    cases hf : ws.reverse.find? (·.hits x y) with
    | some v => simp
    | none =>
      simp only [setFunctionModule, Grid.get_set, List.find?_cons, ModuleWrite.hits, List.find?_nil]
      by_cases h : x = w.x ∧ y = w.y ∧ w.x < 177 ∧ w.y < 177 <;> simp [h]

/-- A cell that no write hits keeps its module. -/
theorem drawAll_m_of_not_hit {ws : List ModuleWrite} {x y : Nat} (h : ∀ w ∈ ws, w.hits x y = false) (c : Canvas) :
    (drawAll ws c).m.get x y = c.m.get x y := by
  have : ws.reverse.find? (·.hits x y) = none := by
    rw [List.find?_eq_none]
    intro w hw
    simp [h w (List.mem_reverse.1 hw)]
  rw [drawAll_m, this]
  rfl

/-- A cell that is hit, and that every hitting write gives the colour `d`, holds `d`. -/
theorem drawAll_m_of_hit {ws : List ModuleWrite} {x y : Nat} {d : Bool} (hit : ∃ w ∈ ws, w.hits x y = true)
    (same : ∀ w ∈ ws, w.hits x y = true → w.d = d) (c : Canvas) : (drawAll ws c).m.get x y = d := by
  rw [drawAll_m]
  cases hf : ws.reverse.find? (·.hits x y) with
  | none =>
    obtain ⟨w, hw, hh⟩ := hit
    exact absurd hh (List.find?_eq_none.1 hf w (List.mem_reverse.2 hw))
  | some w =>
    have hm := List.mem_of_find?_eq_some hf
    have hp := List.find?_some hf
    simpa using same w (List.mem_reverse.1 hm) hp

end Sys2Proof.Machine
end

