-- ==== Sys2Proof/Laws/Memory.lean ====
section
/-! SUPPORT. Reading the byte arrays after a store, and the canonical form of the arrays. -/
namespace Sys2Proof.Machine.Memory

@[simp] theorem read_nil (a : Nat) : read [] a = unlisted a := rfl

theorem read_cons (c : Host.Cell) (m : Memory) (a : Nat) :
    read (c :: m) a = if c.1 = a then some c.2 else read m a := rfl

theorem read_append_of_forall_ne {xs : Memory} {a : Nat} (h : ∀ c ∈ xs, c.1 ≠ a) (ys : Memory) :
    read (xs ++ ys) a = read ys a := by
  induction xs with
  | nil => rfl
  | cons c xs ih =>
    rw [List.cons_append, read_cons, if_neg (h c (by simp))]
    exact ih fun d hd => h d (by simp [hd])

theorem read_of_forall_ne {xs : Memory} {a : Nat} (h : ∀ c ∈ xs, c.1 ≠ a) : read xs a = unlisted a := by
  simpa using read_append_of_forall_ne h []

theorem read_append_right {ys : Memory} {a : Nat} (h : ∀ c ∈ ys, c.1 ≠ a) (xs : Memory) :
    read (xs ++ ys) a = read xs a := by
  induction xs with
  | nil => simpa using read_of_forall_ne h
  | cons c xs ih => rw [List.cons_append, read_cons, read_cons, ih]

theorem read_filter {p : Nat → Bool} {a : Nat} (ha : p a = true) (m : Memory) :
    read (m.filter fun c => p c.1) a = read m a := by
  induction m with
  | nil => rfl
  | cons c m ih =>
    by_cases hp : p c.1 = true
    · rw [List.filter_cons_of_pos (by simpa using hp), read_cons, read_cons, ih]
    · rw [List.filter_cons_of_neg (by simpa using hp), read_cons, ih, if_neg]
      rintro rfl
      exact hp ha

/-- What a canonical cell is: a byte of an array that does not say what its offset reads as anyway. -/
def goodCell (c : Host.Cell) : Prop := inArray c.1 = true ∧ unlisted c.1 ≠ some c.2

theorem mem_cellsAt {off : Nat} {bs : List Byte} {c : Host.Cell} (h : c ∈ cellsAt off bs) :
    off ≤ c.1 ∧ c.1 < off + bs.length ∧ goodCell c := by
  induction bs generalizing off with
  | nil => simp [cellsAt] at h
  | cons b bs ih =>
    have tail : c ∈ cellsAt (off + 1) bs → off ≤ c.1 ∧ c.1 < off + (b :: bs).length ∧ goodCell c := fun hc => by
      obtain ⟨h1, h2, h3⟩ := ih hc
      exact ⟨by omega, by simp only [List.length_cons]; omega, h3⟩
    rw [cellsAt] at h
    split at h
    · rename_i hg
      rcases List.mem_cons.1 h with rfl | hc
      · exact ⟨Nat.le_refl _, by simp only [List.length_cons]; omega, by simpa [goodCell] using hg⟩
      · exact tail hc
    · exact tail h

/-- A byte of an array reads as the cells say. -/
theorem read_cellsAt {bs : List Byte} {off a : Nat} (h1 : off ≤ a) (h2 : a < off + bs.length) (ha : inArray a = true) :
    read (cellsAt off bs) a = some (bs.getD (a - off) 0) := by
  induction bs generalizing off with
  | nil => simp at h2; omega
  | cons b bs ih =>
    simp only [List.length_cons] at h2
    by_cases he : off = a
    · subst he
      have hrest : ∀ c ∈ cellsAt (off + 1) bs, c.1 ≠ off := fun c hc => by have := (mem_cellsAt hc).1; omega
      rw [cellsAt, ha]
      by_cases hu : unlisted off = some b
      · simp [hu, read_of_forall_ne hrest]
      · simp [hu, read_cons]
    · have hlt : off + 1 ≤ a := by omega
      have hx : a - off = (a - (off + 1)) + 1 := by omega
      have := ih hlt (by omega)
      rw [cellsAt]
      split
      · rw [read_cons, if_neg he, this, hx, List.getD_cons_succ]
      · rw [this, hx, List.getD_cons_succ]

/-- Reading a stored byte. -/
theorem read_store_in {bs : List Byte} {off a : Nat} (h1 : off ≤ a) (h2 : a < off + bs.length) (ha : inArray a = true)
    (m : Memory) : read (store m off bs) a = some (bs.getD (a - off) 0) := by
  have hlo : ∀ c ∈ m.filter (fun c => decide (c.1 < off)), c.1 ≠ a := fun c hc => by
    have := (List.mem_filter.1 hc).2
    simp at this
    omega
  have hhi : ∀ c ∈ m.filter (fun c => decide (off + bs.length ≤ c.1)), c.1 ≠ a := fun c hc => by
    have := (List.mem_filter.1 hc).2
    simp at this
    omega
  rw [store, List.append_assoc, read_append_of_forall_ne hlo, read_append_right hhi, read_cellsAt h1 h2 ha]

/-- Every other byte reads as before. -/
theorem read_store_out {bs : List Byte} {off a : Nat} (h : a < off ∨ off + bs.length ≤ a) (m : Memory) :
    read (store m off bs) a = read m a := by
  have hc : ∀ c ∈ cellsAt off bs, c.1 ≠ a := fun c hc => by have := mem_cellsAt hc; omega
  rcases h with h | h
  · have hhi : ∀ c ∈ m.filter (fun c => decide (off + bs.length ≤ c.1)), c.1 ≠ a := fun c hm => by
      have := (List.mem_filter.1 hm).2
      simp at this
      omega
    rw [store, read_append_right hhi, read_append_right hc]
    exact read_filter (p := fun x => decide (x < off)) (by simpa using h) m
  · have hlo : ∀ c ∈ m.filter (fun c => decide (c.1 < off)), c.1 ≠ a := fun c hm => by
      have := (List.mem_filter.1 hm).2
      simp at this
      omega
    rw [store, List.append_assoc, read_append_of_forall_ne hlo, read_append_of_forall_ne hc]
    exact read_filter (p := fun x => decide (off + bs.length ≤ x)) (by simpa using h) m

/-! ### The canonical form -/

theorem wf_cons (c : Host.Cell) (m : Memory) :
    wf (c :: m) = true ↔ goodCell c ∧ (∀ d ∈ m, c.1 < d.1) ∧ wf m = true := by
  simp [wf, goodCell, and_assoc]

/-- The canonical form: offsets strictly rising and every cell good. -/
theorem wf_iff (m : Memory) : wf m = true ↔ m.Pairwise (fun c d => c.1 < d.1) ∧ ∀ c ∈ m, goodCell c := by
  induction m with
  | nil => simp [wf]
  | cons c m ih =>
    rw [wf_cons, ih, List.pairwise_cons, List.forall_mem_cons]
    tauto

theorem pairwise_cellsAt (off : Nat) (bs : List Byte) : (cellsAt off bs).Pairwise fun c d => c.1 < d.1 := by
  induction bs generalizing off with
  | nil => simp [cellsAt]
  | cons b bs ih =>
    rw [cellsAt]
    split
    · exact List.pairwise_cons.2 ⟨fun d hd => by have := (mem_cellsAt hd).1; simp only; omega, ih _⟩
    · exact ih _

/-- A store keeps the canonical form. -/
theorem store_wf {m : Memory} (h : wf m = true) (off : Nat) (bs : List Byte) : wf (store m off bs) = true := by
  rw [wf_iff] at h ⊢
  obtain ⟨hp, hg⟩ := h
  constructor
  · rw [store, List.pairwise_append, List.pairwise_append]
    refine ⟨⟨hp.filter _, pairwise_cellsAt off bs, ?_⟩, hp.filter _, ?_⟩
    · intro c hc d hd
      have := (List.mem_filter.1 hc).2
      have := (mem_cellsAt hd).1
      simp at *
      omega
    · intro c hc d hd
      have h2 := (List.mem_filter.1 hd).2
      rcases List.mem_append.1 hc with hc | hc
      · have := (List.mem_filter.1 hc).2
        simp at *
        omega
      · have := (mem_cellsAt hc).2.1
        simp at *
        omega
  · intro c hc
    rw [store] at hc
    rcases List.mem_append.1 hc with hc | hc
    · rcases List.mem_append.1 hc with hc | hc
      · exact hg c (List.mem_filter.1 hc).1
      · exact (mem_cellsAt hc).2.2
    · exact hg c (List.mem_filter.1 hc).1

/-- The memory of the reset state is in canonical form. -/
theorem reset_wf : wf State.reset.mem = true := rfl

/-! ### Ranges -/

/-- What reading a range gives: the bytes in order, if every one has a value. -/
theorem readBytes_eq_some {m : Memory} {off n : Nat} {bs : List Byte} :
    readBytes m off n = some bs ↔ bs.length = n ∧ ∀ k < n, read m (off + k) = some (bs.getD k 0) := by
  induction n generalizing off bs with
  | zero => cases bs <;> simp [readBytes]
  | succ n ih =>
    constructor
    · intro h
      rw [readBytes] at h
      split at h
      · rename_i b rest hb hr
        obtain ⟨hl, hk⟩ := ih.1 hr
        cases h
        refine ⟨by simp [hl], fun k hk' => ?_⟩
        cases k with
        | zero => simpa using hb
        | succ k =>
          have := hk k (by omega)
          rw [List.getD_cons_succ, ← this]
          congr 1
          omega
      · exact absurd h (by simp)
    · rintro ⟨hl, hk⟩
      cases bs with
      | nil => simp at hl
      | cons b rest =>
        have h0 := hk 0 (by omega)
        have hr : readBytes m (off + 1) n = some rest := ih.2 ⟨by simpa using hl, fun k hk' => by
          have := hk (k + 1) (by omega)
          rw [List.getD_cons_succ] at this
          rw [← this]
          congr 1
          omega⟩
        rw [readBytes, hr]
        simp only [Nat.add_zero, List.getD_cons_zero] at h0
        rw [h0]

/-- Reading a range fails exactly when one of its bytes has no value. -/
theorem readBytes_eq_none {m : Memory} {off n : Nat} :
    readBytes m off n = none ↔ ∃ k < n, read m (off + k) = none := by
  induction n generalizing off with
  | zero => simp [readBytes]
  | succ n ih =>
    rw [readBytes]
    constructor
    · intro h
      cases hb : read m off with
      | none => exact ⟨0, by omega, by simpa using hb⟩
      | some b =>
        cases hr : readBytes m (off + 1) n with
        | none =>
          obtain ⟨k, hk, hn⟩ := ih.1 hr
          exact ⟨k + 1, by omega, by rw [← hn]; congr 1; omega⟩
        | some rest => rw [hb, hr] at h; simp at h
    · rintro ⟨k, hk, hn⟩
      cases k with
      | zero => rw [Nat.add_zero] at hn; rw [hn]
      | succ k =>
        have : readBytes m (off + 1) n = none := ih.2 ⟨k, by omega, by rw [← hn]; congr 1; omega⟩
        rw [this]
        cases read m off <;> rfl

@[simp] theorem length_bytes (m : Memory) (off n : Nat) : (bytes m off n).length = n := by simp [bytes]

theorem getD_bytes {m : Memory} {off n k : Nat} (h : k < n) : (bytes m off n).getD k 0 = (read m (off + k)).getD 0 := by
  simp [bytes, List.getD_eq_getElem?_getD, h]

end Sys2Proof.Machine.Memory

namespace Sys2Proof.Machine

@[simp] theorem length_pad256 (bs : List Byte) : (pad256 bs).length = 256 := by
  simp [pad256]
  omega

theorem getD_pad256 {bs : List Byte} {j : Nat} (h : j < 256) : (pad256 bs).getD j 0 = bs.getD j 0 := by
  simp only [pad256, List.getD_eq_getElem?_getD, List.getElem?_take, h, if_true]
  by_cases hj : j < bs.length
  · rw [List.getElem?_append_left hj]
  · rw [List.getElem?_append_right (by omega), List.getElem?_eq_none (l := bs) (by omega), List.getElem?_replicate]
    split <;> rfl

end Sys2Proof.Machine
end

