-- ==== Sys2Proof/Laws/Operations.lean ====
section
/-! SUPPORT. What the shared operations of the command families give: lengths, mask operands, the masked matrix, the
configured registers, and the moves a step can make. -/
namespace Sys2Proof.Machine

/-! ### Reed–Solomon -/

@[simp] theorem length_mulRoot (root : Byte) (r : List Byte) : (mulRoot root r).length = r.length := by
  induction r with
  | nil => rfl
  | cons a t ih =>
    cases t with
    | nil => rfl
    | cons b t => simpa [mulRoot] using ih

@[simp] theorem length_divisorLoop (n : Nat) (root : Byte) (r : List Byte) : (divisorLoop n root r).length = r.length := by
  induction n generalizing root r with
  | zero => rfl
  | succ n ih => simp [divisorLoop, ih]

@[simp] theorem length_divisor (d : Nat) : (divisor d).length = d := by
  cases d <;> simp [divisor, divisorStart]

theorem length_remainderStep {div r : List Byte} (h : r.length = div.length) (b : Byte) :
    (remainderStep div r b).length = div.length := by
  cases r with
  | nil => simp at h; simp [remainderStep, ← h]
  | cons a t => simp at h; simp [remainderStep, ← h]

@[simp] theorem length_remainder (data div : List Byte) : (remainder data div).length = div.length := by
  have key : ∀ (data r : List Byte), r.length = div.length → (data.foldl (remainderStep div) r).length = div.length := by
    intro data
    induction data with
    | nil => exact fun r h => h
    | cons b t ih => exact fun r h => ih _ (length_remainderStep h b)
  exact key data _ (by simp)

/-! ### Mask operands (R113) -/

theorem maskIndex_eq_some {m : Int} {k : Fin 8} : maskIndex m = some k ↔ m = (k.val : Int) := by
  unfold maskIndex
  split
  · simp only [Option.some.injEq, Fin.ext_iff]
    omega
  · simp only [reduceCtorEq, false_iff]
    have := k.isLt
    omega

theorem maskIndex_eq_none {m : Int} : maskIndex m = none ↔ ¬(0 ≤ m ∧ m ≤ 7) := by
  unfold maskIndex
  split <;> simp_all

@[simp] theorem maskIndex_val (k : Fin 8) : maskIndex (k.val : Int) = some k := maskIndex_eq_some.2 rfl

@[simp] theorem maskChoice_auto : maskChoice (-1) = some .auto := rfl

@[simp] theorem maskChoice_val (k : Fin 8) : maskChoice (k.val : Int) = some (.fixed k) := by
  unfold maskChoice
  rw [if_neg (by omega), maskIndex_val]
  rfl

theorem maskChoice_eq_none {m : Int} : maskChoice m = none ↔ ¬(-1 ≤ m ∧ m ≤ 7) := by
  unfold maskChoice
  split
  · simp_all
  · simp only [Option.map_eq_none_iff, maskIndex_eq_none]
    omega

/-! ### The masked matrix (R251) -/

theorem get_applyMask (m : Fin 8) (s : State) (h : s.size.toNat ≤ 177) (x y : Nat) :
    (applyMask m s).gridM.get x y =
      ((s.gridM.get x y) ^^ (decide (x < s.size.toNat ∧ y < s.size.toNat) && (!s.gridF.get x y && maskPred m x y))) := by
  have hm : min s.size.toNat 177 = s.size.toNat := Nat.min_eq_left h
  simp only [applyMask, Grid.get_xor, maskCells, Grid.get_ofCells, hm]

theorem applyMask_applyMask (m : Fin 8) (s : State) : applyMask m (applyMask m s) = s := by
  simp [applyMask]

/-! ### The step -/

/-- A step that answers a next state: one host at most, and a move of one agent on the rest of the schedule. -/
theorem step_next {s t : State} (h : step s = .next t) :
    s.hosts ≤ 1 ∧ ∃ rest : List Agent, (rest = s.sched ∨ rest = s.sched.tail) ∧
      ((∃ w, s.pend = some w ∧ runWord w { s with sched := rest } = .next t) ∨
        (∃ inp more, s.inputs = inp :: more ∧ takeInput inp { s with sched := rest, inputs := more } = .next t) ∨
        t = { s with sched := rest }) := by
  unfold step stepMachine at h
  split at h
  · cases h
  · refine ⟨by omega, (takeTurn s).2, ?_, ?_⟩
    · unfold takeTurn
      split <;> simp_all
    · generalize (takeTurn s).1 = a at h
      cases a with
      | engine =>
        simp only [moveOf, engineStep] at h
        split at h
        · cases h; exact .inr (.inr rfl)
        · rename_i w hw; exact .inl ⟨w, hw, h⟩
      | host =>
        simp only [moveOf, hostStep] at h
        split at h
        · cases h; exact .inr (.inr rfl)
        · rename_i inp more hi; exact .inr (.inl ⟨inp, more, hi, h⟩)

end Sys2Proof.Machine
end

