-- ==== Sys2Proof/Laws/State.lean ====
section
/-! SUPPORT. Every field after every shared update of the state, so that no later proof unfolds a record update. -/
namespace Sys2Proof.Machine

/-! ### State.draw -/

@[simp] theorem State.draw_err (s : State) (ws : List ModuleWrite) : (s.draw ws).err = s.err := rfl
@[simp] theorem State.draw_phase (s : State) (ws : List ModuleWrite) : (s.draw ws).phase = s.phase := rfl
@[simp] theorem State.draw_funcDone (s : State) (ws : List ModuleWrite) : (s.draw ws).funcDone = s.funcDone := rfl
@[simp] theorem State.draw_trial (s : State) (ws : List ModuleWrite) : (s.draw ws).trial = s.trial := rfl
@[simp] theorem State.draw_result (s : State) (ws : List ModuleWrite) : (s.draw ws).result = s.result := rfl
@[simp] theorem State.draw_version (s : State) (ws : List ModuleWrite) : (s.draw ws).version = s.version := rfl
@[simp] theorem State.draw_ecl (s : State) (ws : List ModuleWrite) : (s.draw ws).ecl = s.ecl := rfl
@[simp] theorem State.draw_size (s : State) (ws : List ModuleWrite) : (s.draw ws).size = s.size := rfl
@[simp] theorem State.draw_mask (s : State) (ws : List ModuleWrite) : (s.draw ws).mask = s.mask := rfl
@[simp] theorem State.draw_dataLen (s : State) (ws : List ModuleWrite) : (s.draw ws).dataLen = s.dataLen := rfl
@[simp] theorem State.draw_ndc (s : State) (ws : List ModuleWrite) : (s.draw ws).ndc = s.ndc := rfl
@[simp] theorem State.draw_nrc (s : State) (ws : List ModuleWrite) : (s.draw ws).nrc = s.nrc := rfl
@[simp] theorem State.draw_nblk (s : State) (ws : List ModuleWrite) : (s.draw ws).nblk = s.nblk := rfl
@[simp] theorem State.draw_ecclen (s : State) (ws : List ModuleWrite) : (s.draw ws).ecclen = s.ecclen := rfl
@[simp] theorem State.draw_nshort (s : State) (ws : List ModuleWrite) : (s.draw ws).nshort = s.nshort := rfl
@[simp] theorem State.draw_sblen (s : State) (ws : List ModuleWrite) : (s.draw ws).sblen = s.sblen := rfl
@[simp] theorem State.draw_deg (s : State) (ws : List ModuleWrite) : (s.draw ws).deg = s.deg := rfl
@[simp] theorem State.draw_bestPenalty (s : State) (ws : List ModuleWrite) : (s.draw ws).bestPenalty = s.bestPenalty := rfl
@[simp] theorem State.draw_pscore (s : State) (ws : List ModuleWrite) : (s.draw ws).pscore = s.pscore := rfl
@[simp] theorem State.draw_mem (s : State) (ws : List ModuleWrite) : (s.draw ws).mem = s.mem := rfl
@[simp] theorem State.draw_gridM (s : State) (ws : List ModuleWrite) : (s.draw ws).gridM = (drawAll ws s.canvas).m := rfl
@[simp] theorem State.draw_gridF (s : State) (ws : List ModuleWrite) : (s.draw ws).gridF = (drawAll ws s.canvas).f := rfl
@[simp] theorem State.draw_pend (s : State) (ws : List ModuleWrite) : (s.draw ws).pend = s.pend := rfl
@[simp] theorem State.draw_params (s : State) (ws : List ModuleWrite) : (s.draw ws).params = s.params := rfl
@[simp] theorem State.draw_hosts (s : State) (ws : List ModuleWrite) : (s.draw ws).hosts = s.hosts := rfl
@[simp] theorem State.draw_inputs (s : State) (ws : List ModuleWrite) : (s.draw ws).inputs = s.inputs := rfl
@[simp] theorem State.draw_sched (s : State) (ws : List ModuleWrite) : (s.draw ws).sched = s.sched := rfl
@[simp] theorem State.draw_readLog (s : State) (ws : List ModuleWrite) : (s.draw ws).readLog = s.readLog := rfl

/-! ### State.setDrawDone -/

@[simp] theorem State.setDrawDone_err (s : State) (i : Nat) : (s.setDrawDone i).err = s.err := rfl
@[simp] theorem State.setDrawDone_phase (s : State) (i : Nat) : (s.setDrawDone i).phase = s.phase := rfl
@[simp] theorem State.setDrawDone_funcDone (s : State) (i : Nat) : (s.setDrawDone i).funcDone = s.funcDone ||| (1#5 <<< i) := rfl
@[simp] theorem State.setDrawDone_trial (s : State) (i : Nat) : (s.setDrawDone i).trial = s.trial := rfl
@[simp] theorem State.setDrawDone_result (s : State) (i : Nat) : (s.setDrawDone i).result = s.result := rfl
@[simp] theorem State.setDrawDone_version (s : State) (i : Nat) : (s.setDrawDone i).version = s.version := rfl
@[simp] theorem State.setDrawDone_ecl (s : State) (i : Nat) : (s.setDrawDone i).ecl = s.ecl := rfl
@[simp] theorem State.setDrawDone_size (s : State) (i : Nat) : (s.setDrawDone i).size = s.size := rfl
@[simp] theorem State.setDrawDone_mask (s : State) (i : Nat) : (s.setDrawDone i).mask = s.mask := rfl
@[simp] theorem State.setDrawDone_dataLen (s : State) (i : Nat) : (s.setDrawDone i).dataLen = s.dataLen := rfl
@[simp] theorem State.setDrawDone_ndc (s : State) (i : Nat) : (s.setDrawDone i).ndc = s.ndc := rfl
@[simp] theorem State.setDrawDone_nrc (s : State) (i : Nat) : (s.setDrawDone i).nrc = s.nrc := rfl
@[simp] theorem State.setDrawDone_nblk (s : State) (i : Nat) : (s.setDrawDone i).nblk = s.nblk := rfl
@[simp] theorem State.setDrawDone_ecclen (s : State) (i : Nat) : (s.setDrawDone i).ecclen = s.ecclen := rfl
@[simp] theorem State.setDrawDone_nshort (s : State) (i : Nat) : (s.setDrawDone i).nshort = s.nshort := rfl
@[simp] theorem State.setDrawDone_sblen (s : State) (i : Nat) : (s.setDrawDone i).sblen = s.sblen := rfl
@[simp] theorem State.setDrawDone_deg (s : State) (i : Nat) : (s.setDrawDone i).deg = s.deg := rfl
@[simp] theorem State.setDrawDone_bestPenalty (s : State) (i : Nat) : (s.setDrawDone i).bestPenalty = s.bestPenalty := rfl
@[simp] theorem State.setDrawDone_pscore (s : State) (i : Nat) : (s.setDrawDone i).pscore = s.pscore := rfl
@[simp] theorem State.setDrawDone_mem (s : State) (i : Nat) : (s.setDrawDone i).mem = s.mem := rfl
@[simp] theorem State.setDrawDone_gridM (s : State) (i : Nat) : (s.setDrawDone i).gridM = s.gridM := rfl
@[simp] theorem State.setDrawDone_gridF (s : State) (i : Nat) : (s.setDrawDone i).gridF = s.gridF := rfl
@[simp] theorem State.setDrawDone_pend (s : State) (i : Nat) : (s.setDrawDone i).pend = s.pend := rfl
@[simp] theorem State.setDrawDone_params (s : State) (i : Nat) : (s.setDrawDone i).params = s.params := rfl
@[simp] theorem State.setDrawDone_hosts (s : State) (i : Nat) : (s.setDrawDone i).hosts = s.hosts := rfl
@[simp] theorem State.setDrawDone_inputs (s : State) (i : Nat) : (s.setDrawDone i).inputs = s.inputs := rfl
@[simp] theorem State.setDrawDone_sched (s : State) (i : Nat) : (s.setDrawDone i).sched = s.sched := rfl
@[simp] theorem State.setDrawDone_readLog (s : State) (i : Nat) : (s.setDrawDone i).readLog = s.readLog := rfl

/-! ### applyMask -/

@[simp] theorem applyMask_err (m : Fin 8) (s : State) : (applyMask m s).err = s.err := rfl
@[simp] theorem applyMask_phase (m : Fin 8) (s : State) : (applyMask m s).phase = s.phase := rfl
@[simp] theorem applyMask_funcDone (m : Fin 8) (s : State) : (applyMask m s).funcDone = s.funcDone := rfl
@[simp] theorem applyMask_trial (m : Fin 8) (s : State) : (applyMask m s).trial = s.trial := rfl
@[simp] theorem applyMask_result (m : Fin 8) (s : State) : (applyMask m s).result = s.result := rfl
@[simp] theorem applyMask_version (m : Fin 8) (s : State) : (applyMask m s).version = s.version := rfl
@[simp] theorem applyMask_ecl (m : Fin 8) (s : State) : (applyMask m s).ecl = s.ecl := rfl
@[simp] theorem applyMask_size (m : Fin 8) (s : State) : (applyMask m s).size = s.size := rfl
@[simp] theorem applyMask_mask (m : Fin 8) (s : State) : (applyMask m s).mask = s.mask := rfl
@[simp] theorem applyMask_dataLen (m : Fin 8) (s : State) : (applyMask m s).dataLen = s.dataLen := rfl
@[simp] theorem applyMask_ndc (m : Fin 8) (s : State) : (applyMask m s).ndc = s.ndc := rfl
@[simp] theorem applyMask_nrc (m : Fin 8) (s : State) : (applyMask m s).nrc = s.nrc := rfl
@[simp] theorem applyMask_nblk (m : Fin 8) (s : State) : (applyMask m s).nblk = s.nblk := rfl
@[simp] theorem applyMask_ecclen (m : Fin 8) (s : State) : (applyMask m s).ecclen = s.ecclen := rfl
@[simp] theorem applyMask_nshort (m : Fin 8) (s : State) : (applyMask m s).nshort = s.nshort := rfl
@[simp] theorem applyMask_sblen (m : Fin 8) (s : State) : (applyMask m s).sblen = s.sblen := rfl
@[simp] theorem applyMask_deg (m : Fin 8) (s : State) : (applyMask m s).deg = s.deg := rfl
@[simp] theorem applyMask_bestPenalty (m : Fin 8) (s : State) : (applyMask m s).bestPenalty = s.bestPenalty := rfl
@[simp] theorem applyMask_pscore (m : Fin 8) (s : State) : (applyMask m s).pscore = s.pscore := rfl
@[simp] theorem applyMask_mem (m : Fin 8) (s : State) : (applyMask m s).mem = s.mem := rfl
@[simp] theorem applyMask_gridM (m : Fin 8) (s : State) : (applyMask m s).gridM = s.gridM ^^^ maskCells s.gridF s.size.toNat m := rfl
@[simp] theorem applyMask_gridF (m : Fin 8) (s : State) : (applyMask m s).gridF = s.gridF := rfl
@[simp] theorem applyMask_pend (m : Fin 8) (s : State) : (applyMask m s).pend = s.pend := rfl
@[simp] theorem applyMask_params (m : Fin 8) (s : State) : (applyMask m s).params = s.params := rfl
@[simp] theorem applyMask_hosts (m : Fin 8) (s : State) : (applyMask m s).hosts = s.hosts := rfl
@[simp] theorem applyMask_inputs (m : Fin 8) (s : State) : (applyMask m s).inputs = s.inputs := rfl
@[simp] theorem applyMask_sched (m : Fin 8) (s : State) : (applyMask m s).sched = s.sched := rfl
@[simp] theorem applyMask_readLog (m : Fin 8) (s : State) : (applyMask m s).readLog = s.readLog := rfl

/-! ### placeCodewords -/

@[simp] theorem placeCodewords_err (s : State) : (placeCodewords s).err = s.err := rfl
@[simp] theorem placeCodewords_phase (s : State) : (placeCodewords s).phase = s.phase := rfl
@[simp] theorem placeCodewords_funcDone (s : State) : (placeCodewords s).funcDone = s.funcDone := rfl
@[simp] theorem placeCodewords_trial (s : State) : (placeCodewords s).trial = s.trial := rfl
@[simp] theorem placeCodewords_result (s : State) : (placeCodewords s).result = s.result := rfl
@[simp] theorem placeCodewords_version (s : State) : (placeCodewords s).version = s.version := rfl
@[simp] theorem placeCodewords_ecl (s : State) : (placeCodewords s).ecl = s.ecl := rfl
@[simp] theorem placeCodewords_size (s : State) : (placeCodewords s).size = s.size := rfl
@[simp] theorem placeCodewords_mask (s : State) : (placeCodewords s).mask = s.mask := rfl
@[simp] theorem placeCodewords_dataLen (s : State) : (placeCodewords s).dataLen = s.dataLen := rfl
@[simp] theorem placeCodewords_ndc (s : State) : (placeCodewords s).ndc = s.ndc := rfl
@[simp] theorem placeCodewords_nrc (s : State) : (placeCodewords s).nrc = s.nrc := rfl
@[simp] theorem placeCodewords_nblk (s : State) : (placeCodewords s).nblk = s.nblk := rfl
@[simp] theorem placeCodewords_ecclen (s : State) : (placeCodewords s).ecclen = s.ecclen := rfl
@[simp] theorem placeCodewords_nshort (s : State) : (placeCodewords s).nshort = s.nshort := rfl
@[simp] theorem placeCodewords_sblen (s : State) : (placeCodewords s).sblen = s.sblen := rfl
@[simp] theorem placeCodewords_deg (s : State) : (placeCodewords s).deg = s.deg := rfl
@[simp] theorem placeCodewords_bestPenalty (s : State) : (placeCodewords s).bestPenalty = s.bestPenalty := rfl
@[simp] theorem placeCodewords_pscore (s : State) : (placeCodewords s).pscore = s.pscore := rfl
@[simp] theorem placeCodewords_mem (s : State) : (placeCodewords s).mem = s.mem := rfl
@[simp] theorem placeCodewords_gridM (s : State) : (placeCodewords s).gridM = placeBits s.gridM s.gridF s.size.toNat (streamBits s.codewords) := rfl
@[simp] theorem placeCodewords_gridF (s : State) : (placeCodewords s).gridF = s.gridF := rfl
@[simp] theorem placeCodewords_pend (s : State) : (placeCodewords s).pend = s.pend := rfl
@[simp] theorem placeCodewords_params (s : State) : (placeCodewords s).params = s.params := rfl
@[simp] theorem placeCodewords_hosts (s : State) : (placeCodewords s).hosts = s.hosts := rfl
@[simp] theorem placeCodewords_inputs (s : State) : (placeCodewords s).inputs = s.inputs := rfl
@[simp] theorem placeCodewords_sched (s : State) : (placeCodewords s).sched = s.sched := rfl
@[simp] theorem placeCodewords_readLog (s : State) : (placeCodewords s).readLog = s.readLog := rfl

/-! ### loadDivisor -/

@[simp] theorem loadDivisor_err (d : Nat) (s : State) : (loadDivisor d s).err = s.err := rfl
@[simp] theorem loadDivisor_phase (d : Nat) (s : State) : (loadDivisor d s).phase = s.phase := rfl
@[simp] theorem loadDivisor_funcDone (d : Nat) (s : State) : (loadDivisor d s).funcDone = s.funcDone := rfl
@[simp] theorem loadDivisor_trial (d : Nat) (s : State) : (loadDivisor d s).trial = s.trial := rfl
@[simp] theorem loadDivisor_result (d : Nat) (s : State) : (loadDivisor d s).result = s.result := rfl
@[simp] theorem loadDivisor_version (d : Nat) (s : State) : (loadDivisor d s).version = s.version := rfl
@[simp] theorem loadDivisor_ecl (d : Nat) (s : State) : (loadDivisor d s).ecl = s.ecl := rfl
@[simp] theorem loadDivisor_size (d : Nat) (s : State) : (loadDivisor d s).size = s.size := rfl
@[simp] theorem loadDivisor_mask (d : Nat) (s : State) : (loadDivisor d s).mask = s.mask := rfl
@[simp] theorem loadDivisor_dataLen (d : Nat) (s : State) : (loadDivisor d s).dataLen = s.dataLen := rfl
@[simp] theorem loadDivisor_ndc (d : Nat) (s : State) : (loadDivisor d s).ndc = s.ndc := rfl
@[simp] theorem loadDivisor_nrc (d : Nat) (s : State) : (loadDivisor d s).nrc = s.nrc := rfl
@[simp] theorem loadDivisor_nblk (d : Nat) (s : State) : (loadDivisor d s).nblk = s.nblk := rfl
@[simp] theorem loadDivisor_ecclen (d : Nat) (s : State) : (loadDivisor d s).ecclen = s.ecclen := rfl
@[simp] theorem loadDivisor_nshort (d : Nat) (s : State) : (loadDivisor d s).nshort = s.nshort := rfl
@[simp] theorem loadDivisor_sblen (d : Nat) (s : State) : (loadDivisor d s).sblen = s.sblen := rfl
@[simp] theorem loadDivisor_deg (d : Nat) (s : State) : (loadDivisor d s).deg = BitVec.ofNat 8 d := rfl
@[simp] theorem loadDivisor_bestPenalty (d : Nat) (s : State) : (loadDivisor d s).bestPenalty = s.bestPenalty := rfl
@[simp] theorem loadDivisor_pscore (d : Nat) (s : State) : (loadDivisor d s).pscore = s.pscore := rfl
@[simp] theorem loadDivisor_mem (d : Nat) (s : State) : (loadDivisor d s).mem = s.mem.store divBase (pad256 (divisor d)) := rfl
@[simp] theorem loadDivisor_gridM (d : Nat) (s : State) : (loadDivisor d s).gridM = s.gridM := rfl
@[simp] theorem loadDivisor_gridF (d : Nat) (s : State) : (loadDivisor d s).gridF = s.gridF := rfl
@[simp] theorem loadDivisor_pend (d : Nat) (s : State) : (loadDivisor d s).pend = s.pend := rfl
@[simp] theorem loadDivisor_params (d : Nat) (s : State) : (loadDivisor d s).params = s.params := rfl
@[simp] theorem loadDivisor_hosts (d : Nat) (s : State) : (loadDivisor d s).hosts = s.hosts := rfl
@[simp] theorem loadDivisor_inputs (d : Nat) (s : State) : (loadDivisor d s).inputs = s.inputs := rfl
@[simp] theorem loadDivisor_sched (d : Nat) (s : State) : (loadDivisor d s).sched = s.sched := rfl
@[simp] theorem loadDivisor_readLog (d : Nat) (s : State) : (loadDivisor d s).readLog = s.readLog := rfl

/-! ### loadRemainder -/

@[simp] theorem loadRemainder_err (r : List Byte) (s : State) : (loadRemainder r s).err = s.err := rfl
@[simp] theorem loadRemainder_phase (r : List Byte) (s : State) : (loadRemainder r s).phase = s.phase := rfl
@[simp] theorem loadRemainder_funcDone (r : List Byte) (s : State) : (loadRemainder r s).funcDone = s.funcDone := rfl
@[simp] theorem loadRemainder_trial (r : List Byte) (s : State) : (loadRemainder r s).trial = s.trial := rfl
@[simp] theorem loadRemainder_result (r : List Byte) (s : State) : (loadRemainder r s).result = s.result := rfl
@[simp] theorem loadRemainder_version (r : List Byte) (s : State) : (loadRemainder r s).version = s.version := rfl
@[simp] theorem loadRemainder_ecl (r : List Byte) (s : State) : (loadRemainder r s).ecl = s.ecl := rfl
@[simp] theorem loadRemainder_size (r : List Byte) (s : State) : (loadRemainder r s).size = s.size := rfl
@[simp] theorem loadRemainder_mask (r : List Byte) (s : State) : (loadRemainder r s).mask = s.mask := rfl
@[simp] theorem loadRemainder_dataLen (r : List Byte) (s : State) : (loadRemainder r s).dataLen = s.dataLen := rfl
@[simp] theorem loadRemainder_ndc (r : List Byte) (s : State) : (loadRemainder r s).ndc = s.ndc := rfl
@[simp] theorem loadRemainder_nrc (r : List Byte) (s : State) : (loadRemainder r s).nrc = s.nrc := rfl
@[simp] theorem loadRemainder_nblk (r : List Byte) (s : State) : (loadRemainder r s).nblk = s.nblk := rfl
@[simp] theorem loadRemainder_ecclen (r : List Byte) (s : State) : (loadRemainder r s).ecclen = s.ecclen := rfl
@[simp] theorem loadRemainder_nshort (r : List Byte) (s : State) : (loadRemainder r s).nshort = s.nshort := rfl
@[simp] theorem loadRemainder_sblen (r : List Byte) (s : State) : (loadRemainder r s).sblen = s.sblen := rfl
@[simp] theorem loadRemainder_deg (r : List Byte) (s : State) : (loadRemainder r s).deg = s.deg := rfl
@[simp] theorem loadRemainder_bestPenalty (r : List Byte) (s : State) : (loadRemainder r s).bestPenalty = s.bestPenalty := rfl
@[simp] theorem loadRemainder_pscore (r : List Byte) (s : State) : (loadRemainder r s).pscore = s.pscore := rfl
@[simp] theorem loadRemainder_mem (r : List Byte) (s : State) : (loadRemainder r s).mem = s.mem.store remBase (pad256 r) := rfl
@[simp] theorem loadRemainder_gridM (r : List Byte) (s : State) : (loadRemainder r s).gridM = s.gridM := rfl
@[simp] theorem loadRemainder_gridF (r : List Byte) (s : State) : (loadRemainder r s).gridF = s.gridF := rfl
@[simp] theorem loadRemainder_pend (r : List Byte) (s : State) : (loadRemainder r s).pend = s.pend := rfl
@[simp] theorem loadRemainder_params (r : List Byte) (s : State) : (loadRemainder r s).params = s.params := rfl
@[simp] theorem loadRemainder_hosts (r : List Byte) (s : State) : (loadRemainder r s).hosts = s.hosts := rfl
@[simp] theorem loadRemainder_inputs (r : List Byte) (s : State) : (loadRemainder r s).inputs = s.inputs := rfl
@[simp] theorem loadRemainder_sched (r : List Byte) (s : State) : (loadRemainder r s).sched = s.sched := rfl
@[simp] theorem loadRemainder_readLog (r : List Byte) (s : State) : (loadRemainder r s).readLog = s.readLog := rfl

/-! ### State.logRead -/

@[simp] theorem State.logRead_err (v : Word) (s : State) : (s.logRead v).err = s.err := rfl
@[simp] theorem State.logRead_phase (v : Word) (s : State) : (s.logRead v).phase = s.phase := rfl
@[simp] theorem State.logRead_funcDone (v : Word) (s : State) : (s.logRead v).funcDone = s.funcDone := rfl
@[simp] theorem State.logRead_trial (v : Word) (s : State) : (s.logRead v).trial = s.trial := rfl
@[simp] theorem State.logRead_result (v : Word) (s : State) : (s.logRead v).result = s.result := rfl
@[simp] theorem State.logRead_version (v : Word) (s : State) : (s.logRead v).version = s.version := rfl
@[simp] theorem State.logRead_ecl (v : Word) (s : State) : (s.logRead v).ecl = s.ecl := rfl
@[simp] theorem State.logRead_size (v : Word) (s : State) : (s.logRead v).size = s.size := rfl
@[simp] theorem State.logRead_mask (v : Word) (s : State) : (s.logRead v).mask = s.mask := rfl
@[simp] theorem State.logRead_dataLen (v : Word) (s : State) : (s.logRead v).dataLen = s.dataLen := rfl
@[simp] theorem State.logRead_ndc (v : Word) (s : State) : (s.logRead v).ndc = s.ndc := rfl
@[simp] theorem State.logRead_nrc (v : Word) (s : State) : (s.logRead v).nrc = s.nrc := rfl
@[simp] theorem State.logRead_nblk (v : Word) (s : State) : (s.logRead v).nblk = s.nblk := rfl
@[simp] theorem State.logRead_ecclen (v : Word) (s : State) : (s.logRead v).ecclen = s.ecclen := rfl
@[simp] theorem State.logRead_nshort (v : Word) (s : State) : (s.logRead v).nshort = s.nshort := rfl
@[simp] theorem State.logRead_sblen (v : Word) (s : State) : (s.logRead v).sblen = s.sblen := rfl
@[simp] theorem State.logRead_deg (v : Word) (s : State) : (s.logRead v).deg = s.deg := rfl
@[simp] theorem State.logRead_bestPenalty (v : Word) (s : State) : (s.logRead v).bestPenalty = s.bestPenalty := rfl
@[simp] theorem State.logRead_pscore (v : Word) (s : State) : (s.logRead v).pscore = s.pscore := rfl
@[simp] theorem State.logRead_mem (v : Word) (s : State) : (s.logRead v).mem = s.mem := rfl
@[simp] theorem State.logRead_gridM (v : Word) (s : State) : (s.logRead v).gridM = s.gridM := rfl
@[simp] theorem State.logRead_gridF (v : Word) (s : State) : (s.logRead v).gridF = s.gridF := rfl
@[simp] theorem State.logRead_pend (v : Word) (s : State) : (s.logRead v).pend = s.pend := rfl
@[simp] theorem State.logRead_params (v : Word) (s : State) : (s.logRead v).params = s.params := rfl
@[simp] theorem State.logRead_hosts (v : Word) (s : State) : (s.logRead v).hosts = s.hosts := rfl
@[simp] theorem State.logRead_inputs (v : Word) (s : State) : (s.logRead v).inputs = s.inputs := rfl
@[simp] theorem State.logRead_sched (v : Word) (s : State) : (s.logRead v).sched = s.sched := rfl
@[simp] theorem State.logRead_readLog (v : Word) (s : State) : (s.logRead v).readLog = v :: s.readLog := rfl

/-! ### The draws of the commands are draws -/

theorem drawTiming_eq (s : State) : drawTiming s = s.draw (timingWrites s.size.toNat) := rfl
theorem drawFinders_eq (s : State) : drawFinders s = s.draw (findersWrites s.size.toNat) := rfl
theorem drawAlignments_eq (s : State) : drawAlignments s = s.draw (alignmentsWrites s.size.toNat s.version.toNat) := rfl
theorem drawFormat_eq (m : Fin 8) (s : State) :
    drawFormat m s = s.draw (formatWrites s.size.toNat (formatBits s.ecl m)) := rfl
theorem drawVersion_eq (s : State) : drawVersion s = s.draw (versionWrites s.size.toNat s.version.toNat) := rfl

/-- Draws one after another are one draw. -/
theorem State.draw_draw (s : State) (us ws : List ModuleWrite) : (s.draw us).draw ws = s.draw (us ++ ws) := by
  simp [State.draw, State.withCanvas, State.canvas, drawAll_append]

end Sys2Proof.Machine
end

