-- ==== Sys2Proof/Laws/Outcome.lean ====
section
/-! SUPPORT. Once for each shared operation, everything it can answer. -/
namespace Sys2Proof.Machine

@[simp] theorem complete_eq (s : State) : complete s = .next { s with err := .ok, pend := none } := rfl

@[simp] theorem raise_eq (e : ErrCode) (s : State) : raise e s = .next { s with err := e, pend := none } := rfl

/-- The length check finds nothing exactly when DATA_LEN = NDC (R178). -/
theorem lengthError_eq_none {s : State} : lengthError s = none ↔ s.dataLen = s.ndc := by
  unfold lengthError
  rw [← BitVec.toNat_inj]
  split
  · simp; omega
  · split
    · simp; omega
    · simp; omega

/-- The two errors of the length check (R178). -/
theorem lengthError_eq_some {s : State} {e : ErrCode} (h : lengthError s = some e) :
    (e = .capacityExceeded ∧ s.ndc.toNat < s.dataLen.toNat) ∨ (e = .lengthMismatch ∧ s.dataLen.toNat < s.ndc.toNat) := by
  unfold lengthError at h
  split at h
  · exact .inl ⟨by simpa using h.symm, ‹_›⟩
  · split at h
    · exact .inr ⟨by simpa using h.symm, ‹_›⟩
    · exact absurd h (by simp)

/-- What a command that reads the data codewords can answer (R178, R312). -/
theorem withDataCodewords_cases (s : State) (k : List Byte → State) :
    (∃ e, lengthError s = some e ∧ withDataCodewords s k = raise e s) ∨
    (s.dataLen = s.ndc ∧ s.dataBytes 0 s.ndc.toNat = none ∧ withDataCodewords s k = .fault .unwrittenDataRead) ∨
    (∃ data, s.dataLen = s.ndc ∧ s.dataBytes 0 s.ndc.toNat = some data ∧ withDataCodewords s k = complete (k data)) := by
  unfold withDataCodewords
  cases hl : lengthError s with
  | some e => exact .inl ⟨e, rfl, rfl⟩
  | none =>
    have he := lengthError_eq_none.1 hl
    cases hd : s.dataBytes 0 s.ndc.toNat with
    | none => exact .inr (.inl ⟨he, rfl, rfl⟩)
    | some data => exact .inr (.inr ⟨data, he, rfl, rfl⟩)

/-- What a host read can answer (R90). -/
theorem hostRead_cases (off n : Nat) (s : State) :
    (accessError off n = true ∧ hostRead off n s = .error .hostAccessError) ∨
    (accessError off n = false ∧ s.busy = true ∧ off ≠ 4 ∧ hostRead off n s = .error .hostProtocolViolation) ∨
    (accessError off n = false ∧ (s.busy = true → off = 4) ∧ isRegister off = true ∧
      hostRead off n s = .ok (registerValue s off)) ∨
    (accessError off n = false ∧ s.busy = false ∧ isRegister off = false ∧ s.mem.readBytes off n = none ∧
      hostRead off n s = .error .unwrittenDataRead) ∨
    (∃ bs, accessError off n = false ∧ s.busy = false ∧ isRegister off = false ∧ s.mem.readBytes off n = some bs ∧
      hostRead off n s = .ok (wordOfBytes bs)) := by
  unfold hostRead
  cases ha : accessError off n with
  | true => simp
  | false =>
    by_cases hb : s.busy = true ∧ off ≠ 4
    · simp [hb]
    · have h4 : s.busy = true → off = 4 := fun h => by
        by_contra hne
        exact hb ⟨h, hne⟩
      cases hr : isRegister off with
      | true => simp [hb]; tauto
      | false =>
        have hnb : s.busy = false := by
          cases hbb : s.busy with
          | false => rfl
          | true => rw [h4 hbb] at hr; exact absurd hr (by decide)
        cases hm : s.mem.readBytes off n with
        | none => simp [hnb]
        | some bs => simp [hnb]

/-- What a host write can answer (R90). -/
theorem hostWrite_cases (off n : Nat) (v : Word) (s : State) :
    (accessError off n = true ∧ hostWrite off n v s = .error .hostAccessError) ∨
    (accessError off n = false ∧ s.busy = true ∧ hostWrite off n v s = .error .hostProtocolViolation) ∨
    (accessError off n = false ∧ s.busy = false ∧
      ((off = 0 ∧ hostWrite off n v s = .ok { s with pend := some v }) ∨
       (off = 0x1C ∧ hostWrite off n v s = .ok { s with dataLen := v.extractLsb' 0 12 }) ∨
       (inData off = true ∧ hostWrite off n v s = .ok { s with mem := s.mem.store off (bytesOfWord n v) }) ∨
       (off ≠ 0 ∧ off ≠ 0x1C ∧ inData off = false ∧ hostWrite off n v s = .ok s))) := by
  unfold hostWrite
  cases ha : accessError off n with
  | true => simp
  | false =>
    cases hb : s.busy with
    | true => simp
    | false =>
      by_cases h0 : off = 0
      · simp [h0]
      · by_cases h1 : off = 0x1C
        · simp [h1]
        · cases hd : inData off with
          | true => simp [h0, h1]
          | false => simp [h0, h1]

/-- The agent that moves: the host moves while a command is pending only when the schedule says so and it has something to
do. -/
theorem takeTurn_engine {s : State} (hb : s.busy = true) (h : s.sched = [] ∨ ∃ rest, s.sched = .engine :: rest) :
    takeTurn s = (.engine, s.sched.tail) := by
  rcases h with h | ⟨rest, h⟩ <;> simp [takeTurn, h, hb]

end Sys2Proof.Machine
end

