-- ==== Sys2Proof/Laws/PerInstr.lean ====
section
/-! SUPPORT. The statement made for every command by syntax: its word carries its opcode (R110, R113). -/
namespace Sys2Proof.Laws.OpcodeField

/-- The OP field of the command's word is the command's opcode. -/
def Statement (i : Instr) : Prop := opField (encode i) = opcodeOf i

theorem gfMul (x y : Byte) : Statement (.gfMul x y) := (fields_encode _).1
theorem rsDivisor (degree : Nat) : Statement (.rsDivisor degree) := (fields_encode _).1
theorem rsRemainder (off len : Nat) : Statement (.rsRemainder off len) := (fields_encode _).1
theorem config (version : Nat) (ecl : Ecl) : Statement (.config version ecl) := (fields_encode _).1
theorem eccInterleave : Statement .eccInterleave := (fields_encode _).1
theorem drawTiming : Statement .drawTiming := (fields_encode _).1
theorem drawFinders : Statement .drawFinders := (fields_encode _).1
theorem drawAlignment : Statement .drawAlignment := (fields_encode _).1
theorem drawFormat (m : Int) : Statement (.drawFormat m) := (fields_encode _).1
theorem drawVersion : Statement .drawVersion := (fields_encode _).1
theorem drawFunctionPatterns : Statement .drawFunctionPatterns := (fields_encode _).1
theorem drawCodewords : Statement .drawCodewords := (fields_encode _).1
theorem applyMask (m : Int) : Statement (.applyMask m) := (fields_encode _).1
theorem penalty : Statement .penalty := (fields_encode _).1
theorem finalize (m : Int) : Statement (.finalize m) := (fields_encode _).1
theorem encodeSymbol (m : Int) : Statement (.encodeSymbol m) := (fields_encode _).1
theorem getModule (x y : Int) : Statement (.getModule x y) := (fields_encode _).1

end Sys2Proof.Laws.OpcodeField
end

