-- ==== Sys2Proof/Tests/Slice0.lean ====
section
/-! SUPPORT. Tests and witnesses. Words are written out from 30_encoding.md R113 and R118, expected results from
95_test_vectors.md. A theorem `witness_<Name>` shows that the hypotheses of `Obligations.<Name>` can be met. -/
set_option Elab.async false

namespace Sys2Proof.Tests
open Sys2Proof.Machine

/-! ### Helpers -/

/-- The outcome is a next state with `p`. -/
def nextHas (o : Host.Outcome State Fault Refusal) (p : State → Bool) : Bool :=
  match o with
  | .next t => p t
  | _ => false

/-- The next state, or the state after reset. -/
def nextOf (o : Host.Outcome State Fault Refusal) : State :=
  match o with
  | .next t => t
  | _ => State.reset

/-- The outcome is the fault `f`. -/
def faultIs (o : Host.Outcome State Fault Refusal) (f : Fault) : Bool :=
  match o with
  | .fault g => g == f
  | _ => false

/-- The outcome is an error that leaves STATUS as given. -/
def statusAfter (o : Host.Outcome State Fault Refusal) (status : Word) : Bool := nextHas o fun t => statusWord t == status

/-- A version 1 matrix from its rows; the leftmost cell is the most significant bit. -/
def gridOf (rows : List Nat) : Grid := Grid.ofCells 21 fun x y => (rows.getD y 0).testBit (20 - x)

/-- The rows of a version 1 matrix as `gridOf` reads them. -/
def rowsOf (g : Grid) : List Nat :=
  (List.range 21).map fun y => (g.row 21 y).foldl (fun acc d => 2 * acc + d.toNat) 0

/-- M of V-FP, version 1-L. -/
def patternRows : List Nat :=
  [0b111111100000001111111, 0b100000100000001000001, 0b101110101000001011101, 0b101110100000001011101] ++
  [0b101110100000001011101, 0b100000100000001000001, 0b111111101010101111111, 0b000000001000000000000] ++
  [0b111011111000011000100, 0b000000000000000000000, 0b000000100000000000000, 0b000000000000000000000] ++
  [0b000000100000000000000, 0b000000001000000000000, 0b111111101000000000000, 0b100000101000000000000] ++
  [0b101110101000000000000, 0b101110100000000000000, 0b101110101000000000000, 0b100000101000000000000] ++
  [0b111111101000000000000]

/-- F of V-FP, version 1-L. -/
def shadowRows : List Nat :=
  [0b111111111000011111111, 0b111111111000011111111, 0b111111111000011111111, 0b111111111000011111111] ++
  [0b111111111000011111111, 0b111111111000011111111, 0b111111111111111111111, 0b111111111000011111111] ++
  [0b111111111000011111111, 0b000000100000000000000, 0b000000100000000000000, 0b000000100000000000000] ++
  [0b000000100000000000000, 0b111111111000000000000, 0b111111111000000000000, 0b111111111000000000000] ++
  [0b111111111000000000000, 0b111111111000000000000, 0b111111111000000000000, 0b111111111000000000000] ++
  [0b111111111000000000000]

/-- M of V-PL, 1-L. -/
def placedRows : List Nat :=
  [0b111111100000001111111, 0b100000100101101000001, 0b101110101000101011101, 0b101110100101101011101] ++
  [0b101110100111001011101, 0b100000100010001000001, 0b111111101010101111111, 0b000000001111000000000] ++
  [0b111011111000011000100, 0b101110011110010111011, 0b010000111101100001101, 0b110011000000100000100] ++
  [0b101101111101100100000, 0b000000001111011101111, 0b111111101010001111001, 0b100000101111011000010] ++
  [0b101110101110000101010, 0b101110100110000001000, 0b101110101001110111100, 0b100000101100100100001] ++
  [0b111111101001110110100]

/-- M of V-ENC1. -/
def finishedRows : List Nat :=
  [0b111111100010101111111, 0b100000101010101000001, 0b101110101011001011101, 0b101110100000101011101] ++
  [0b101110101111101011101, 0b100000101110001000001, 0b111111101010101111111, 0b000000001000000000000] ++
  [0b110100110011101110110, 0b111011001011000010001, 0b101000100101011001010, 0b101111011100111100111] ++
  [0b000111110111001110101, 0b000000001000011010111, 0b111111101001101100101, 0b100000100010001101000] ++
  [0b101110100110111101101, 0b101110101010011101011, 0b101110100011011101001, 0b100000101011100011001] ++
  [0b111111101010010101000]

/-- M of P4: "HELLO WORLD", 1-L, mask 3. -/
def maskThreeRows : List Nat :=
  [0b111111101100101111111, 0b100000100100101000001, 0b101110101010101011101, 0b101110101001001011101] ++
  [0b101110101110001011101, 0b100000100000001000001, 0b111111101010101111111, 0b000000000110000000000] ++
  [0b111100101010010011101, 0b001010011010110011111, 0b011001110100101000100, 0b100001010010110010110] ++
  [0b001001111001000000100, 0b000000001110010100110, 0b111111100000011101011, 0b100000100011111100110] ++
  [0b101110100111001100011, 0b101110101100010011010, 0b101110101101010011000, 0b100000101101101101000] ++
  [0b111111101011100100110]

/-- DATA of S2 ("HELLO WORLD", 1-L). -/
def hello : List Byte := [32, 91, 11, 120, 209, 114, 220, 77, 67, 64, 236, 17, 236, 17, 236, 17, 236, 17, 236]

/-- CW[19..25] of V-IL 1-L: the ECC of `hello`. -/
def helloEcc : List Byte := [209, 239, 196, 207, 78, 195, 109]

/-- A configured symbol, PHASE 1. -/
def symbol (v : Nat) (e : Ecl) : State := configure v e State.reset

/-- `hello` in DATA, PHASE 1. -/
def helloState : State := { symbol 1 .low with mem := Memory.store [] 0x1000 hello, dataLen := 19 }

/-- V-FP's state, PHASE 2, with `hello` in DATA. -/
def fixedState : State :=
  { helloState with gridM := gridOf patternRows, gridF := gridOf shadowRows, funcDone := 0b11111, phase := .fixed }

/-- V-IL's 1-L codewords in CW, PHASE 3. -/
def eccState : State := { fixedState with mem := fixedState.mem.store 0x2000 (hello ++ helloEcc), phase := .ecc }

/-- V-PL's state, PHASE 4. -/
def placedState : State := { eccState with gridM := gridOf placedRows, phase := .data }

/-- V-ENC1's finished symbol, PHASE 6. -/
def finishedState : State :=
  { eccState with gridM := gridOf finishedRows, gridF := Grid.clear, mask := some 7, phase := .final }

/-! ### WellFormed: an ill-formed term of every check is refused, its boundary accepted (R118) -/

theorem test_wf_u8 : (Instr.rsDivisor 256).wellFormed = false ∧ (Instr.rsDivisor 255).wellFormed = true := by decide
theorem test_wf_u12_first :
    (Instr.rsRemainder 4096 0).wellFormed = false ∧ (Instr.rsRemainder 4095 4095).wellFormed = true := by decide
theorem test_wf_u12_second : (Instr.rsRemainder 0 4096).wellFormed = false := by decide
theorem test_wf_version : (Instr.config 4096 .low).wellFormed = false ∧ (Instr.config 4095 .high).wellFormed = true := by
  decide
theorem test_wf_format :
    (Instr.drawFormat 2048).wellFormed = false ∧ (Instr.drawFormat (-2049)).wellFormed = false := by decide
theorem test_wf_mask : (Instr.applyMask 2048).wellFormed = false ∧ (Instr.applyMask (-2049)).wellFormed = false := by decide
theorem test_wf_finalize : (Instr.finalize 2048).wellFormed = false ∧ (Instr.finalize (-2048)).wellFormed = true := by decide
theorem test_wf_encode :
    (Instr.encodeSymbol (-2049)).wellFormed = false ∧ (Instr.encodeSymbol 2047).wellFormed = true := by decide
theorem test_wf_x : (Instr.getModule 2048 0).wellFormed = false ∧ (Instr.getModule 2047 0).wellFormed = true := by decide
theorem test_wf_y : (Instr.getModule 0 (-2049)).wellFormed = false ∧ (Instr.getModule 0 (-2048)).wellFormed = true := by
  decide

/-! ### Decode: one written-out word a constructor, B (12 bits) A (12 bits) OP (8 bits) -/

theorem test_decode_gfMul : decode 0b000010000011_000001010111_00000001 = .ok (.gfMul 0x57 0x83) := by decide
theorem test_decode_rsDivisor : decode 0b000000000000_000000000111_00000010 = .ok (.rsDivisor 7) := by decide
theorem test_decode_rsRemainder : decode 0b000000000111_101110000110_00000011 = .ok (.rsRemainder 2950 7) := by decide
theorem test_decode_config : decode 0b000000000010_000000000101_00010000 = .ok (.config 5 .quartile) := by decide
theorem test_decode_eccInterleave : decode 0b000000000000_000000000000_00010001 = .ok .eccInterleave := by decide
theorem test_decode_drawTiming : decode 0b000000000000_000000000000_00100000 = .ok .drawTiming := by decide
theorem test_decode_drawFinders : decode 0b000000000000_000000000000_00100001 = .ok .drawFinders := by decide
theorem test_decode_drawAlignment : decode 0b000000000000_000000000000_00100010 = .ok .drawAlignment := by decide
theorem test_decode_drawFormat : decode 0b000000000000_111111111111_00100011 = .ok (.drawFormat (-1)) := by decide
theorem test_decode_drawVersion : decode 0b000000000000_000000000000_00100100 = .ok .drawVersion := by decide
theorem test_decode_drawFunctionPatterns :
    decode 0b000000000000_000000000000_00101111 = .ok .drawFunctionPatterns := by decide
theorem test_decode_drawCodewords : decode 0b000000000000_000000000000_00110000 = .ok .drawCodewords := by decide
theorem test_decode_applyMask : decode 0b000000000000_000000000101_01000000 = .ok (.applyMask 5) := by decide
theorem test_decode_penalty : decode 0b000000000000_000000000000_01000001 = .ok .penalty := by decide
theorem test_decode_finalize : decode 0b000000000000_111111111110_01000010 = .ok (.finalize (-2)) := by decide
theorem test_decode_encodeSymbol : decode 0b000000000000_000000000011_01010000 = .ok (.encodeSymbol 3) := by decide
theorem test_decode_getModule : decode 0b100000000000_000000001000_01100000 = .ok (.getModule 8 (-2048)) := by decide

theorem test_decode_zero : decode 0x00000000 = .error (.unassignedOpcode 0x00) := by decide
theorem test_decode_unassigned : decode 0x00000025 = .error (.unassignedOpcode 0x25) := by decide
theorem test_decode_reserved_u8 : decode 0x00010001 = .error (.reservedBits 0x01) := by decide
theorem test_decode_reserved_second_u8 : decode 0x10000001 = .error (.reservedBits 0x01) := by decide
theorem test_decode_reserved_ecl : decode 0x00400110 = .error (.reservedBits 0x10) := by decide
theorem test_decode_reserved_a : decode 0x00000111 = .error (.reservedBits 0x11) := by decide
theorem test_decode_reserved_b : decode 0x00100023 = .error (.reservedBits 0x23) := by decide

/-- The table of R113 has the decoder's rows, in order, and the encoder's words of R118's table. -/
theorem test_encode_examples :
    encode (.gfMul 0x57 0x83) = 0x08305701 ∧ encode (.config 40 .medium) = 0x00102810 ∧
    encode (.finalize (-1)) = 0x000FFF42 ∧ encode (.getModule 8 13) = 0x00D00860 := by decide

/-! ### One step a command (95_test_vectors.md part 2) -/

theorem test_gfMul_reduces : nextHas (exec (.gfMul 2 128) State.reset) (fun t => t.result == 29) = true := by decide
theorem test_gfMul_largest : nextHas (exec (.gfMul 255 255) State.reset) (fun t => t.result == 226) = true := by decide

theorem test_rsDivisor_seven :
    nextHas (exec (.rsDivisor 7) State.reset) (fun t =>
      t.deg == 7 && t.mem.bytes 0x100 9 == [127, 122, 154, 164, 11, 68, 117, 0, 0]) = true := by decide +kernel
theorem test_rsDivisor_zero : statusAfter (exec (.rsDivisor 0) State.reset) 0x000F0020 = true := by decide

theorem test_rsRemainder_hello :
    nextHas (exec (.rsRemainder 0 19) (loadDivisor 7 helloState)) (fun t => t.mem.bytes 0x200 8 == helloEcc ++ [0]) = true := by
  decide +kernel
theorem test_rsRemainder_unwritten :
    faultIs (exec (.rsRemainder 0 20) { helloState with deg := 7 }) .unwrittenDataRead = true := by decide +kernel

theorem test_config_fourteen_high :
    nextHas (exec (.config 14 .high) State.reset) (fun t =>
      t.size == 73 && t.nrc == 581 && t.nblk == 16 && t.ecclen == 24 && t.ndc == 197 && t.nshort == 11 && t.sblen == 36 &&
      statusWord t == 0x000F0100) = true := by decide +kernel
theorem test_config_forty_one : statusAfter (exec (.config 41 .low) State.reset) 0x000F0020 = true := by decide

/-- V-IL 5-Q, read through the host port. -/
theorem test_eccInterleave_quartile :
    nextHas (exec .eccInterleave { symbol 5 .quartile with
        mem := Memory.store [] 0x1000 ((List.range 62).map (BitVec.ofNat 8)), dataLen := 62, phase := .fixed }) (fun t =>
      (hostRead 0x2038 4 t).toOption == some 0x3C2C1D0E && (hostRead 0x203C 4 t).toOption == some 0x55823D2D &&
      (hostRead 0x2084 4 t).toOption == some 0x0000138A && (hostRead 0x0200 4 t).toOption == some 0x70E7E044) = true := by
  decide +kernel
theorem test_eccInterleave_short : statusAfter (exec .eccInterleave { fixedState with dataLen := 18 }) 0x000FFA50 = true := by
  decide +kernel

theorem test_drawTiming :
    nextHas (exec .drawTiming (symbol 1 .low)) (fun t =>
      statusWord t == 0x000F0900 && t.gridM.get 6 20 && !t.gridM.get 6 7 && t.gridM.get 0 6 && t.gridF.get 19 6) = true := by
  decide +kernel
theorem test_drawFinders :
    nextHas (exec .drawFinders { symbol 1 .low with funcDone := 1 }) (fun t =>
      statusWord t == 0x000F1900 && t.gridM.get 3 3 && !t.gridM.get 1 1 && !t.gridM.get 7 7 && t.gridM.get 1 6 &&
      t.gridF.get 13 0 && !t.gridF.get 13 13) = true := by decide +kernel
theorem test_drawAlignment :
    nextHas (exec .drawAlignment { symbol 2 .low with funcDone := 3 }) (fun t =>
      t.gridM.get 18 18 && !t.gridM.get 18 17 && t.gridM.get 16 16 && !t.gridF.get 6 6 && !t.gridF.get 18 6) = true := by
  decide +kernel
theorem test_drawFormat :
    nextHas (exec (.drawFormat 0) { symbol 1 .low with funcDone := 7 }) (fun t =>
      statusWord t == 0x000F7900 && !t.gridM.get 8 0 && t.gridM.get 8 2 && t.gridM.get 0 8 && t.gridM.get 8 13) = true := by
  decide +kernel
theorem test_drawFormat_minus_one :
    statusAfter (exec (.drawFormat (-1)) { symbol 1 .low with funcDone := 7 }) 0x000F3920 = true := by decide +kernel
/-- 0x07C94: bits 2 and 4 are 1, bits 0 and 1 are 0. -/
theorem test_drawVersion :
    nextHas (exec .drawVersion { symbol 7 .low with funcDone := 15 }) (fun t =>
      statusWord t == 0x000FFA00 && !t.gridM.get 34 0 && t.gridM.get 36 0 && t.gridM.get 0 36 && t.gridM.get 35 1 &&
      t.gridM.get 1 35) = true := by decide +kernel
theorem test_format_word : formatBits .high 5 = 0b000001001010101 := by decide
theorem test_version_word : versionBits 40 = 0x28C69 := by decide

theorem test_drawFunctionPatterns :
    nextHas (exec .drawFunctionPatterns (symbol 1 .low)) (fun t =>
      statusWord t == 0x000FFA00 && rowsOf t.gridM == patternRows && rowsOf t.gridF == shadowRows) = true := by decide +kernel
theorem test_drawCodewords :
    nextHas (exec .drawCodewords eccState) (fun t => statusWord t == 0x000FFC00 && rowsOf t.gridM == placedRows) = true := by
  decide +kernel

theorem test_applyMask_zero :
    nextHas (exec (.applyMask 0) placedState) (fun t => statusWord t == 0x0000FD00 && t.gridM.get 20 20 && t.gridM.get 0 0)
      = true := by decide +kernel
theorem test_applyMask_other :
    statusAfter (exec (.applyMask 3) { placedState with phase := .trial, trial := some 0 }) 0x0000FD40 = true := by
  decide +kernel

/-- V-MK: the predicates at (1, 2). -/
theorem test_maskPred :
    (List.finRange 8).map (fun m => maskPred m 1 2) = [false, true, false, true, false, false, true, false] := by decide
theorem test_penalty_placed : nextHas (exec .penalty placedState) (fun t => t.result == 1010) = true := by decide +kernel
/-- Row 10, x = 7..13 = 1011101 (V-PEN), under BOTH_SIDES. -/
theorem test_penalty_both_sides :
    nextHas (exec .penalty { symbol 1 .low with
        params := ⟨.bothSides, .floor⟩, gridM := gridOf (List.replicate 10 0 ++ [0b10111010000000]) })
      (fun t => t.result == 2056) = true := by decide +kernel

theorem test_finalize_auto :
    nextHas (exec (.finalize (-1)) placedState) (fun t =>
      statusWord t == 0x000FFE00 && t.mask == some 7 && t.bestPenalty == 1030 && rowsOf t.gridM == finishedRows &&
      t.pscore.toList == [1069, 1134, 1123, 1151, 1151, 1298, 1173, 1030]) = true := by decide +kernel
theorem test_finalize_eight :
    nextHas (exec (.finalize 8) placedState) (fun t => t == { placedState with err := .rangeError }) = true := by
  decide +kernel

theorem test_encodeSymbol_three :
    nextHas (exec (.encodeSymbol 3) helloState) (fun t =>
      statusWord t == 0x000FFE00 && t.mask == some 3 && t.bestPenalty == 0 && rowsOf t.gridM == maskThreeRows && t.deg == 7 &&
      t.mem.bytes 0x2000 26 == hello ++ helloEcc) = true := by decide +kernel

theorem test_getModule_dark : nextHas (exec (.getModule 8 13) finishedState) (fun t => t.result == 1) = true := by
  decide +kernel
theorem test_getModule_outside : nextHas (exec (.getModule 21 0) finishedState) (fun t => t.result == 0) = true := by
  decide +kernel

/-! ### The host port, the step and reset -/

/-- After RS_DIVISOR 7, RD 0x0100 = 0xA49A7A7F (V-RS). -/
theorem test_rd_little_endian :
    hostRead 0x0100 4 { State.reset with mem := Memory.store [] 0x0100 [0x7F, 0x7A, 0x9A, 0xA4] } = .ok 0xA49A7A7F := by
  decide +kernel
theorem test_wr_little_endian :
    (hostWrite 0x1000 4 0x44332211 State.reset).toOption.map (fun t => t.mem) =
      some [(0x1000, 0x11), (0x1001, 0x22), (0x1002, 0x33), (0x1003, 0x44)] := by decide
theorem test_wrb_one_byte :
    (hostWrite 0x1B8B 1 0xAABBCCDD State.reset).toOption.map (fun t => t.mem) = some [(0x1B8B, 0xDD)] := by decide
theorem test_write_ignored :
    (hostWrite 0x0100 1 0xFF State.reset).toOption = some State.reset := by decide +kernel
theorem test_reset_status : statusWord State.reset = 0x000F0000 := by decide
theorem test_step_from_reset :
    nextHas (step (State.reset.withFetchWord 32 0x08000201)) (fun t => t.result == 29 && t.pend == none) = true := by decide
theorem test_step_illegal :
    nextHas (step (State.reset.withFetchWord 32 0)) (fun t => statusWord t == 0x000F0010) = true := by decide
/-- A platform reset discards a pending command. -/
theorem test_reset_discards :
    nextHas (takeInput .reset { State.reset with pend := some 0x08000201, result := 5 }) (fun t => t == State.reset) = true := by
  decide +kernel

/-! ### Witnesses: the hypotheses of the obligations can be met -/

/-- CMD holds a legal word, the engine is next on the schedule. -/
def pendingState : State := State.reset.withFetchWord 32 0x08000201

theorem witness_DecodeOfEncode : (Instr.getModule (-2048) 2047).wellFormed = true ∧ (Instr.rsRemainder 4095 0).wellFormed = true := by
  decide
theorem witness_EncodeOfDecode : decode 0xFFFFFF60 = .ok (.getModule (-1) (-1)) := by decide
theorem witness_LegalWordsSelectOneRow :
    ∃ r ∈ opcodeTable, ∃ r' ∈ opcodeTable, (0x11#32) &&& r.mask = r.pattern ∧ (0x11#32) &&& r'.mask = r'.pattern :=
  ⟨⟨"ECC_INTERLEAVE", 0xFFFFFFFF, 0x11⟩, by decide, ⟨"ECC_INTERLEAVE", 0xFFFFFFFF, 0x11⟩, by decide, by decide, by decide⟩
theorem witness_IllegalWordsRaise_unassigned : ∀ r ∈ opcodeTable, r.pattern.setWidth 8 ≠ opField 0xFFFFFFFF := by decide
theorem witness_IllegalWordsRaise_reserved :
    ∃ r ∈ opcodeTable, r.pattern.setWidth 8 = opField 0x00010001 ∧ (0x00010001#32) &&& r.mask ≠ r.pattern := by decide
theorem witness_StepRunsPendingCommand_scheduled :
    pendingState.hosts ≤ 1 ∧ pendingState.pend = some 0x08000201 ∧ (∃ rest, pendingState.sched = .engine :: rest) ∧
    decode 0x08000201 = .ok (.gfMul 2 128) := ⟨by decide, by decide, ⟨[], rfl⟩, by decide⟩
theorem witness_StepRunsPendingCommand_empty :
    ∃ s : State, s.hosts ≤ 1 ∧ s.pend = some 0 ∧ s.sched = [] ∧ decode 0 = .error (.unassignedOpcode 0) :=
  ⟨{ State.reset with pend := some 0 }, by decide, rfl, rfl, by decide⟩
theorem witness_PlacedCommandRunsNext : State.reset.hosts ≤ 1 ∧ (Instr.config 40 .high).wellFormed = true := by decide
theorem witness_IdleMachineServesHost :
    ∃ s : State, s.hosts ≤ 1 ∧ s.pend = none ∧ s.sched = [] ∧ s.inputs = [.reset] ∧ State.reset.inputs = [] :=
  ⟨{ State.reset with inputs := [.reset] }, by decide, rfl, rfl, rfl, rfl⟩
theorem witness_PendingCommandIsTaken :
    ∃ s : State, s.hosts ≤ 1 ∧ s.pend = some 0x41 ∧ s.sched = [.host, .host, .engine] ∧ OnlyPolls s :=
  ⟨{ State.reset with pend := some 0x41, sched := [.host, .host, .engine], inputs := [.poll, .read 4 4] },
    by decide, rfl, rfl, by unfold OnlyPolls; decide⟩
theorem witness_IssueRunsCommand :
    ∃ s t : State, s.hosts ≤ 1 ∧ s.sched = [] ∧ s.pend = none ∧ s.inputs = issue (.gfMul 2 128) ++ rd 8 ∧
      (Instr.gfMul 2 128).wellFormed = true ∧
      exec (.gfMul 2 128) { s with inputs := .poll :: rd 8, pend := some (encode (.gfMul 2 128)) } = .next t :=
  ⟨{ State.reset with inputs := issue (.gfMul 2 128) ++ rd 8 }, _, by decide, rfl, rfl, rfl, by decide, rfl⟩
theorem witness_FirstErrorDecidesOutcome_errors :
    decode 0x04 = .error (.unassignedOpcode 4) ∧ decode 0x00000340 = .ok (.applyMask 3) ∧
    firstError (.applyMask 3) { placedState with phase := .trial, trial := some 0 } = some .sequenceError ∧
    firstError (.applyMask 8) { placedState with phase := .trial, trial := some 0 } = some .rangeError ∧
    firstError .eccInterleave { fixedState with dataLen := 20 } = some .capacityExceeded := by decide +kernel
theorem witness_FirstErrorDecidesOutcome_none :
    decode 0x01300003 = .ok (.rsRemainder 0 19) ∧ firstError (.rsRemainder 0 19) { helloState with deg := 7 } = none ∧
    dataWritten (.rsRemainder 0 19) { helloState with deg := 7 } = true ∧
    dataWritten (.rsRemainder 0 20) { helloState with deg := 7 } = false := by decide +kernel
theorem witness_ErrorsLeaveAllElseUnchanged :
    ∃ t, exec .penalty State.reset = .next t ∧ t.err ≠ .ok := ⟨_, rfl, by decide⟩
theorem witness_exec_next : ∃ t, exec (.gfMul 2 2) State.reset = .next t ∧ t.err = .ok := ⟨_, rfl, rfl⟩
theorem witness_CommandsKeepHostData : inData 0x1000 = true ∧ inData 0x1B8B = true := by decide
theorem witness_PhaseTableHolds :
    legalPhase .drawFinders (symbol 1 .low) = false ∧
    ∃ s : State, s.phase = .trial ∧ (maskCode s.trial : Int) ≠ 7 ∧ s.trial = some 0 :=
  ⟨by decide +kernel, { placedState with phase := .trial, trial := some 0 }, rfl, by decide, rfl⟩
theorem witness_FinishedSymbolIsReadOnly :
    finishedState.phase = .final ∧ ∃ t, exec (.gfMul 1 1) finishedState = .next t ∧ t.err = .ok := ⟨rfl, _, rfl, rfl⟩
theorem witness_StepStops_access :
    faultIs (step { State.reset with inputs := [.read 0x60 4] }) .hostAccessError = true ∧
    faultIs (step { State.reset with inputs := [.write 0x1C 1 0] }) .hostAccessError = true := by decide
theorem witness_StepStops_busy :
    faultIs (step { State.reset with inputs := [.read 8 4], sched := [.host], pend := some 0 }) .hostProtocolViolation
      = true := by decide
theorem witness_StepStops_unwritten :
    faultIs (step { State.reset with inputs := [.read 0x1B88 4] }) .unwrittenDataRead = true ∧
    faultIs (step { State.reset with pend := some 0x00100003, deg := 1 }) .unwrittenDataRead = true := by decide +kernel
theorem witness_StepStops_hosts : faultIs (step { State.reset with hosts := 2 }) .twoHosts = true := by decide
theorem witness_GfMulIsFieldMultiplication : gfmul 0 5 = 0 ∧ gfPow 0 = gfPow 0 ∧ gfPow 254 = 0x8E := by decide +kernel
theorem witness_RsDivisorBuildsGenerator : 1 ≤ 1 ∧ 1 ≤ 255 ∧ inDiv 0x200 = false ∧ inDiv 0xFF = false := by decide
theorem witness_RsRemainderDividesData :
    ∃ s : State, s.deg ≠ 0 ∧ 0 + 19 ≤ 2956 ∧ s.dataBytes 0 19 = some hello ∧ s.dataBytes 2956 0 = some [] :=
  ⟨{ helloState with deg := 7 }, by decide, by decide, by decide +kernel, by decide⟩
theorem witness_ConfigStartsSymbol : 1 ≤ 1 ∧ 1 ≤ 40 ∧ 40 ≤ 40 ∧ inCw 0x2E7C = false ∧ inCw 0x1FFF = false := by decide
theorem witness_SecondConfigWins : ∃ t, exec (.config 1 .low) State.reset = .next t ∧ t.err = .ok := ⟨_, rfl, rfl⟩

theorem configured_one : Configured (symbol 1 .low) := by constructor <;> decide
theorem configured_seven : Configured (symbol 7 .medium) := by constructor <;> decide
theorem configured_forty : Configured (symbol 40 .high) := by constructor <;> decide
theorem configured_placed : Configured placedState := by constructor <;> decide

theorem witness_EccInterleaveFillsCodewords :
    Configured fixedState ∧ fixedState.phase = .fixed ∧ fixedState.dataLen = fixedState.ndc ∧
    fixedState.dataBytes 0 fixedState.ndc.toNat = some hello :=
  ⟨by constructor <;> decide, rfl, by decide, by decide +kernel⟩
/-- Short and long blocks: 0 to 1 and 2 to 3 of 4. -/
theorem witness_EccInterleave_long :
    (symbol 5 .quartile).layout.nshort = 2 ∧ (symbol 5 .quartile).layout.nblk = 4 ∧ Configured (symbol 5 .quartile) :=
  ⟨by decide, by decide, by constructor <;> decide⟩
theorem witness_DrawTimingAlternates :
    (symbol 40 .high).phase = .configured ∧ (symbol 40 .high).funcDone = 0 ∧ (symbol 40 .high).size.toNat ≤ 177 := by decide
theorem witness_DrawFindersAtThreeCorners :
    ∃ s : State, s.phase = .configured ∧ s.funcDone = 0b00001 ∧ 21 ≤ s.size.toNat ∧ s.size.toNat ≤ 177 ∧
      finderDistance s.size.toNat 7 7 ≤ 4 ∧ ¬finderDistance s.size.toNat 8 8 ≤ 4 :=
  ⟨{ symbol 1 .low with funcDone := 1 }, by decide⟩
theorem witness_DrawAlignmentAtCentres :
    ∃ s : State, Configured s ∧ s.phase = .configured ∧ s.funcDone = 0b00011 ∧ isAlignCentre s.version.toNat 22 6 ∧
      cellDistance 24 4 22 6 ≤ 2 :=
  ⟨{ symbol 7 .medium with funcDone := 3 }, by constructor <;> decide, rfl, rfl, by unfold isAlignCentre; decide, by decide⟩
/-- Version 1 has no alignment centre, so no cell is near one. -/
theorem witness_DrawAlignment_none : ∀ cx cy, isAlignCentre 1 cx cy → 2 < cellDistance 0 0 cx cy := by
  rintro cx cy ⟨h, -⟩
  rw [show alignPos 1 = [] from rfl] at h
  simp at h
theorem witness_AlignmentPositionsAreSpaced : alignPos 2 = [6, 18] ∧ alignPos 40 = [6, 30, 58, 86, 114, 142, 170] := by decide
theorem witness_DrawFormatPlacesBits :
    ∃ s : State, s.formatLegal = true ∧ 21 ≤ s.size.toNat ∧ s.size.toNat ≤ 177 ∧ isFormatCell s.size.toNat 8 0 ∧
      ¬isFormatCell s.size.toNat 8 6 :=
  ⟨{ symbol 1 .low with funcDone := 7 }, by decide, by decide, by decide, .inl ⟨0, by decide, by decide⟩,
    by unfold isFormatCell; decide⟩
theorem witness_DrawVersionPlacesBits :
    ∃ s u : State, Configured s ∧ s.phase = .configured ∧ s.funcDone = 0b01111 ∧ 7 ≤ s.version.toNat ∧
      isVersionCell s.size.toNat s.version.toNat 34 0 ∧ ¬isVersionCell s.size.toNat s.version.toNat 37 0 ∧
      Configured u ∧ u.phase = .configured ∧ u.funcDone = 0b01111 ∧ u.version.toNat = 6 :=
  ⟨{ symbol 7 .medium with funcDone := 15 }, { symbol 6 .medium with funcDone := 15 }, by constructor <;> decide, rfl, rfl,
    by decide, ⟨by decide, 0, by decide, by decide⟩, by unfold isVersionCell; decide, by constructor <;> decide, rfl, rfl,
    by decide⟩
theorem witness_FunctionPatternsAreTheFiveDraws :
    (symbol 40 .high).phase = .configured ∧ (symbol 40 .high).funcDone = 0 := by decide
/-- The order at version 1 (V-PL): the first pair ends at (19, 9) and beyond upward, the second runs downward, and the pair
after (8, 7) is (5, 4). -/
theorem witness_ScanVisitsEveryCellOnce :
    1 ≤ 1 ∧ 40 ≤ 40 ∧ (0, 20) ∈ scan (symbolSize 1) ∧ (scan (symbolSize 1)).take 3 = [(20, 20), (19, 20), (20, 19)] ∧
    (scan (symbolSize 1))[2 * (21 * 1 + 9) + 1]? = some (17, 9) ∧ pairRight 21 6 = 8 ∧ pairRight 21 7 = 5 ∧
    pairRight 21 9 = 1 := by decide +kernel
theorem witness_DrawCodewordsFollowsScan :
    Configured eccState ∧ eccState.phase = .ecc ∧
    (dataCells eccState.gridF eccState.size.toNat)[0]? = some (20, 20) ∧
    (dataCells eccState.gridF eccState.size.toNat)[207]? = some (0, 12) ∧
    (6, 6) ∉ dataCells eccState.gridF eccState.size.toNat :=
  ⟨by constructor <;> decide, rfl, by decide +kernel, by decide +kernel, by decide +kernel⟩
theorem witness_ApplyMaskFlipsDataCells :
    placedState.size.toNat ≤ 177 ∧ placedState.phase = .data ∧
    ∃ s : State, s.size.toNat ≤ 177 ∧ s.phase = .trial ∧ s.trial = some 7 :=
  ⟨by decide, rfl, { placedState with phase := .trial, trial := some 7 }, by decide, rfl, rfl⟩
theorem witness_ApplyMaskTwiceRestores : placedState.phase = .data ∧ placedState.trial = none := ⟨rfl, rfl⟩
theorem witness_PenaltyFitsResult :
    placedState.phase ≠ .idle ∧ placedState.size.toNat ≤ 177 ∧ 0 < placedState.size.toNat := by decide
/-- The all-light matrix of version 1 (R259): k = 9 against 10; and a deviation that is no multiple. -/
theorem witness_ImbalanceReadingsAgree :
    0 < 441 ∧ 441 ∣ 4410 ∧ ¬441 ∣ 4390 ∧ imbalanceSteps .ceilMinusOne 4410 441 = 9 ∧ imbalanceSteps .floor 4410 441 = 10 := by
  decide
theorem witness_FinalizeAppliesFixedMask :
    Configured placedState ∧ placedState.phase = .data ∧ ¬isFormatCell 21 20 20 ∧ ¬isVersionCell 21 1 20 20 :=
  ⟨configured_placed, rfl, by unfold isFormatCell; decide, by unfold isVersionCell; decide⟩
theorem placed_patterns : PatternsInPlace placedState := by
  constructor
  · rintro x y (⟨i, hi, h⟩ | h)
    · revert hi
      revert i
      have key : ∀ i < 15, placedState.gridF.get (formatCell i).1 (formatCell i).2 = true ∧
          placedState.gridF.get (formatCell2 21 i).1 (formatCell2 21 i).2 = true := by decide +kernel
      intro i h hi
      obtain h | h := h
      · have := (key i hi).1; rw [← h] at this; exact this
      · have hs : placedState.size.toNat = 21 := by decide
        rw [hs] at h
        have := (key i hi).2; rw [← h] at this; exact this
    · have hs : placedState.size.toNat = 21 := by decide
      rw [hs] at h
      cases h
      decide +kernel
  · intro h
    exact absurd h (by decide)
theorem witness_FinalizeChoosesLeastPenalty : Configured placedState ∧ placedState.phase = .data ∧ PatternsInPlace placedState :=
  ⟨configured_placed, rfl, placed_patterns⟩
theorem witness_FinishedScoreIsBestPenalty : Configured placedState ∧ placedState.phase = .data ∧ PatternsInPlace placedState :=
  ⟨configured_placed, rfl, placed_patterns⟩
theorem witness_ManualTrialScoresMask : Configured placedState ∧ placedState.trial = none ∧ PatternsInPlace placedState :=
  ⟨configured_placed, rfl, placed_patterns⟩
theorem witness_EncodeIsThePipeline :
    helloState.phase = .configured ∧ helloState.funcDone = 0 ∧ helloState.dataLen = helloState.ndc ∧
    dataWritten (.encodeSymbol (-1)) helloState = true := by decide +kernel
theorem witness_GetModuleReadsMatrix : finishedState.size.toNat = 21 ∧ finishedState.gridM.get 20 0 = true := by decide +kernel
theorem witness_RegistersReadAsMapped :
    eccState.pend = none ∧ inDiv 0x100 = true ∧ inDiv 0x1FF = true ∧ inRem 0x200 = true ∧ inRem 0x2FF = true ∧
    inCw 0x2000 = true ∧ inCw 0x2E7B = true ∧ inArray 0x2E78 = true ∧ 0x2E78 % 4 = 0 ∧
    (∀ i < 4, eccState.mem.read (0x2000 + i) = hello[i]?) := by decide +kernel
theorem witness_ReadsHaveNoSideEffect : ∃ t, takeInput (.read 4 4) State.reset = .next t := ⟨_, rfl⟩
theorem witness_ReadOnlyWritesAreIgnored :
    accessError 0x04 4 = false ∧ accessError 0x5C 4 = false ∧ accessError 0x2FF 1 = false ∧ accessError 0x2E7B 1 = false ∧
    inData 0x2E7B = false := by decide
theorem witness_CmdWriteStartsCommand : State.reset.busy = false ∧ pendingState.busy = true := by decide
theorem witness_DataWordsAreLittleEndian :
    State.reset.pend = none ∧ 0x1000 % 4 = 0 ∧ 0x1B88 % 4 = 0 ∧ 0x1B88 + 4 ≤ 0x1B8C ∧ 0x1000 ≤ 0x1B8B ∧ 0x1B8B < 0x1B8C :=
  ⟨rfl, by decide⟩
theorem witness_UnwrittenDataReadFaults :
    accessError 0x1000 4 = false ∧ accessError 0x1B8B 1 = false ∧ inData 0x1000 = true ∧ inData 0x1B8B = true ∧
    ∀ k < 4, helloState.mem.read (0x1000 + k) ≠ none := by decide +kernel
theorem witness_AccessErrorsAreExact :
    accessError 0x5C 4 = false ∧ accessError 0x60 4 = true ∧ accessError 0x2E78 4 = false ∧ accessError 0x2E7C 4 = true ∧
    accessError 0x100 1 = false ∧ accessError 0x04 1 = true := by decide
theorem witness_BusyAllowsOnlyStatusReads : pendingState.pend = some 0x08000201 ∧ accessError 0x08 4 = false := by decide

theorem symbol_mem : (symbol 1 .low).mem = [] := by decide +kernel

/-- The invariants hold of a configured symbol, a state that a step leaves. -/
theorem witness_Inv : Inv (symbol 1 .low) where
  mem_wf := by rw [symbol_mem]; rfl
  idle h := absurd h (by decide)
  symbol _ := configured_one
  func_done := by decide
  trial := by decide
  mask := by decide
  err := by decide
  div_zero j _ hj := by
    have : inDiv (divBase + j) = true := by simp [inDiv, Config.rsArrayBytes]; omega
    simp [symbol_mem, Memory.unlisted, this]
  rem_last := by rw [symbol_mem]; rfl
  cw_zero k _ hk := by
    have : inCw (cwBase + k) = true := by simp [inCw, Config.cwArrayBytes]; omega
    simp [symbol_mem, Memory.unlisted, this]
  m_outside x y _ := Grid.get_clear x y
  f_outside x y _ := Grid.get_clear x y
theorem witness_ShadowExact : ShadowExact (symbol 1 .low) := by
  intro x y
  rw [show (symbol 1 .low).gridF = Grid.clear from rfl, show drawnWrites (symbol 1 .low) = [] from rfl]
  simp
theorem witness_PatternsKept_configured : PatternsKept (symbol 1 .low) := fun h => absurd h (by decide)
theorem witness_StepKeepsInvariant : ∃ t, step (symbol 1 .low) = .next t := ⟨_, rfl⟩

/-- A state of PHASE 2 that meets every premise of the step lemmas, with the pattern clause not empty. -/
theorem fixed_inv : Inv fixedState where
  mem_wf := by decide +kernel
  idle h := absurd h (by decide)
  symbol _ := by constructor <;> decide
  func_done := by decide
  trial := by decide
  mask := by decide
  err := by decide
  div_zero j _ hj := by
    have h1 : divBase + j < 0x1000 := by simp only [divBase]; omega
    have h2 : inDiv (divBase + j) = true := by simp [inDiv, Config.rsArrayBytes]; omega
    exact (Memory.read_store_out (.inl h1) []).trans (by simp [Memory.unlisted, h2])
  rem_last := by decide +kernel
  cw_zero k _ hk := by
    have h1 : 0x1000 + hello.length ≤ cwBase + k := by
      rw [show hello.length = 19 from rfl]
      simp only [cwBase]
      omega
    have h2 : inCw (cwBase + k) = true := by simp [inCw, Config.cwArrayBytes]; omega
    exact (Memory.read_store_out (.inr h1) []).trans (by simp [Memory.unlisted, h2])
  m_outside x y h := by
    rw [show fixedState.size.toNat = 21 by decide] at h
    have hn : ¬(x < min 21 177 ∧ y < min 21 177) := by omega
    exact (Grid.get_ofCells 21 _ x y).trans (by rw [decide_eq_false hn, Bool.false_and])
  f_outside x y h := by
    rw [show fixedState.size.toNat = 21 by decide] at h
    have hn : ¬(x < min 21 177 ∧ y < min 21 177) := by omega
    exact (Grid.get_ofCells 21 _ x y).trans (by rw [decide_eq_false hn, Bool.false_and])
theorem fixed_shadow_draw : (drawAll (drawnWrites fixedState) ⟨Grid.clear, Grid.clear⟩).f = fixedState.gridF := by
  decide +kernel
theorem fixed_writes_inside : ∀ w ∈ drawnWrites fixedState, w.x < 177 ∧ w.y < 177 := by decide +kernel
theorem fixed_shadow : ShadowExact fixedState := by
  intro x y
  rw [← fixed_shadow_draw, drawAll_f, Grid.get_clear, Bool.false_or, List.any_eq_true]
  constructor
  · rintro ⟨w, hw, hh⟩
    have := of_decide_eq_true hh
    exact ⟨by decide, w, hw, this.1.symm, this.2.1.symm⟩
  · rintro ⟨-, w, hw, hx, hy⟩
    exact ⟨w, hw, decide_eq_true ⟨hx.symm, hy.symm, fixed_writes_inside w hw⟩⟩
theorem witness_StepKeepsShadowExact :
    Inv fixedState ∧ ShadowExact fixedState ∧ fixedState.phase = .fixed ∧ PatternsKept fixedState ∧
      ∃ t, step fixedState = .next t :=
  ⟨fixed_inv, fixed_shadow, rfl, fun _ => ⟨placed_patterns.1, fun h => absurd h (by decide)⟩, _, rfl⟩
theorem witness_CanonicalArraysAreDeterminedByReads :
    Memory.wf [(0x1000, 0), (0x2000, 1)] = true ∧ Memory.wf [(0x2000, 0)] = false := by decide

end Sys2Proof.Tests
end

section
/-! SUPPORT. What a completed command does, said once: later proofs about commands split on `Completes`, not on `exec`. -/
namespace Sys2Proof.Machine

theorem State.drawsDone_iff {s : State} {done : BitVec 5} :
    s.drawsDone done = true ↔ s.phase = .configured ∧ s.funcDone = done := by
  simp [State.drawsDone]

/-- The checks of the command pass in `s`, and the last argument is the state it hands to COMPLETE (R14): one rule for
each way a command succeeds, with the premises it has then. -/
inductive Completes (s : State) : Instr → State → Prop
  | gfMul (x y : Byte) : Completes s (.gfMul x y) { s with result := (gfmul x y).setWidth 32 }
  | rsDivisor {degree : Nat} (pos : degree ≠ 0) : Completes s (.rsDivisor degree) (loadDivisor degree s)
  | rsRemainder {off len : Nat} {data : List Byte} (deg : s.deg ≠ 0) (range : off + len ≤ Config.dataBytes)
      (written : s.dataBytes off len = some data) :
      Completes s (.rsRemainder off len) (loadRemainder (remainder data s.divisorBytes) s)
  | config {v : Nat} (e : Ecl) (pos : 1 ≤ v) (le : v ≤ 40) : Completes s (.config v e) (configure v e s)
  | eccInterleave {data : List Byte} (phase : s.phase = .fixed) (length : s.dataLen = s.ndc)
      (written : s.dataBytes 0 s.ndc.toNat = some data) :
      Completes s .eccInterleave { eccBody data s with phase := .ecc }
  | drawTiming (phase : s.phase = .configured) (done : s.funcDone = 0b00000) :
      Completes s .drawTiming ((drawTiming s).setDrawDone 0)
  | drawFinders (phase : s.phase = .configured) (done : s.funcDone = 0b00001) :
      Completes s .drawFinders ((drawFinders s).setDrawDone 1)
  | drawAlignment (phase : s.phase = .configured) (done : s.funcDone = 0b00011) :
      Completes s .drawAlignment ((drawAlignments s).setDrawDone 2)
  | drawFormat {m : Int} {k : Fin 8} (phase : s.phase = .configured) (done : s.funcDone = 0b00111)
      (index : maskIndex m = some k) : Completes s (.drawFormat m) ((drawFormat k s).setDrawDone 3)
  | redrawFormat {m : Int} {k : Fin 8} (phase : s.phase = .data ∨ s.phase = .trial) (index : maskIndex m = some k) :
      Completes s (.drawFormat m) (drawFormat k s)
  | drawVersion (phase : s.phase = .configured) (done : s.funcDone = 0b01111) :
      Completes s .drawVersion { (drawVersion s).setDrawDone 4 with phase := .fixed }
  | drawFunctionPatterns (phase : s.phase = .configured) (done : s.funcDone = 0b00000) :
      Completes s .drawFunctionPatterns { drawFunctionPatterns s with funcDone := 0b11111, phase := .fixed }
  | drawCodewords (phase : s.phase = .ecc) : Completes s .drawCodewords { placeCodewords s with phase := .data }
  | applyMask {m : Int} {k : Fin 8} (phase : s.phase = .data) (index : maskIndex m = some k) :
      Completes s (.applyMask m) { applyMask k s with phase := .trial, trial := some k }
  | undoMask {m : Int} {k : Fin 8} (phase : s.phase = .trial) (trial : s.trial = some k)
      (index : maskIndex m = some k) :
      Completes s (.applyMask m) { applyMask k s with phase := .data, trial := none }
  | penalty (phase : s.phase ≠ .idle) : Completes s .penalty { s with result := BitVec.ofNat 32 s.penalty }
  | finalize {m : Int} {choice : MaskChoice} (phase : s.phase = .data) (mask : maskChoice m = some choice) :
      Completes s (.finalize m) (finalizeBody choice s)
  | encodeSymbol {m : Int} {choice : MaskChoice} {data : List Byte} (phase : s.phase = .configured)
      (done : s.funcDone = 0b00000) (mask : maskChoice m = some choice) (length : s.dataLen = s.ndc)
      (written : s.dataBytes 0 s.ndc.toNat = some data) :
      Completes s (.encodeSymbol m) (encodeBody choice data s)
  | getModule (x y : Int) : Completes s (.getModule x y) { s with result := BitVec.ofNat 32 (moduleAt s x y).toNat }

/-- The two ways a command answers a next state: it reports one of the errors of R311, or it completes. -/
def Answers (i : Instr) (s t : State) : Prop :=
  (∃ e : ErrCode, e ≠ .ok ∧ e ≠ .inputEncodingError ∧ t = { s with err := e, pend := none }) ∨
  ∃ u, Completes s i u ∧ t = { u with err := .ok, pend := none }

theorem answers_of_raise {i : Instr} {e : ErrCode} {s t : State} (h : raise e s = .next t) (ok : e ≠ .ok := by decide)
    (reserved : e ≠ .inputEncodingError := by decide) : Answers i s t := by
  cases h
  exact .inl ⟨e, ok, reserved, rfl⟩

theorem answers_of_complete {i : Instr} {s u t : State} (h : complete u = .next t) (hc : Completes s i u) :
    Answers i s t := by
  cases h
  exact .inr ⟨u, hc, rfl⟩

/-- A check that lets the command go on when `p` holds and raises SequenceError when not. -/
theorem answers_of_guard {i : Instr} {s t : State} {p : Prop} [Decidable p] {o : Host.Outcome State Fault Refusal}
    (h : (if p then o else raise .sequenceError s) = .next t) (go : p → o = .next t → Answers i s t) :
    Answers i s t := by
  split at h
  · exact go ‹_› h
  · exact answers_of_raise h

/-- A command that reads the data codewords answers an error of the length check, or completes. -/
theorem answers_of_withDataCodewords {i : Instr} {s t : State} {k : List Byte → State}
    (h : withDataCodewords s k = .next t)
    (hc : ∀ data, s.dataLen = s.ndc → s.dataBytes 0 s.ndc.toNat = some data → Completes s i (k data)) :
    Answers i s t := by
  obtain ⟨e, hl, he⟩ | ⟨-, -, he⟩ | ⟨data, hlen, hd, he⟩ := withDataCodewords_cases s k
  · obtain ⟨rfl, -⟩ | ⟨rfl, -⟩ := lengthError_eq_some hl <;> exact answers_of_raise (he ▸ h)
  · rw [he] at h
    cases h
  · exact answers_of_complete (he ▸ h) (hc data hlen hd)

theorem answers_of_rsDivisor {degree : Nat} {s t : State} (h : execRsDivisor degree s = .next t) :
    Answers (.rsDivisor degree) s t := by
  unfold execRsDivisor at h
  split at h
  · exact answers_of_raise h
  · exact answers_of_complete h (.rsDivisor ‹_›)

theorem answers_of_rsRemainder {off len : Nat} {s t : State} (h : execRsRemainder off len s = .next t) :
    Answers (.rsRemainder off len) s t := by
  unfold execRsRemainder at h
  split at h
  · exact answers_of_raise h
  · split at h
    · exact answers_of_raise h
    · split at h
      · cases h
      · exact answers_of_complete h (.rsRemainder ‹_› (Nat.not_lt.1 ‹_›) ‹_›)

theorem answers_of_config {v : Nat} {e : Ecl} {s t : State} (h : execConfig v e s = .next t) :
    Answers (.config v e) s t := by
  unfold execConfig at h
  split at h
  · exact answers_of_raise h
  · exact answers_of_complete h (.config e (by omega) (by omega))

theorem answers_of_drawFormat {m : Int} {s t : State} (h : execDrawFormat m s = .next t) :
    Answers (.drawFormat m) s t := by
  refine answers_of_guard h fun hl ho => ?_
  split at ho
  · exact answers_of_raise ho
  · rename_i k hk
    by_cases hp : s.phase = .configured
    · rw [if_pos hp] at ho
      exact answers_of_complete ho (.drawFormat hp (by simpa [State.formatLegal, State.drawsDone, hp] using hl) hk)
    · rw [if_neg hp] at ho
      exact answers_of_complete ho (.redrawFormat (by simpa [State.formatLegal, State.drawsDone, hp] using hl) hk)

theorem answers_of_applyMask {m : Int} {s t : State} (h : execApplyMask m s = .next t) :
    Answers (.applyMask m) s t := by
  refine answers_of_guard h fun hl ho => ?_
  split at ho
  · exact answers_of_raise ho
  · rename_i k hk
    split at ho
    · exact answers_of_raise ho
    · rename_i ht
      split at ho
      · exact answers_of_complete ho (.applyMask ‹_› hk)
      · have hp : s.phase = .trial := by simpa [State.maskLegal, ‹s.phase ≠ .data›] using hl
        exact answers_of_complete ho (.undoMask hp (by simpa [hp] using ht) hk)

theorem answers_of_penalty {s t : State} (h : execPenalty s = .next t) : Answers .penalty s t := by
  unfold execPenalty at h
  split at h
  · exact answers_of_raise h
  · exact answers_of_complete h (.penalty ‹_›)

theorem answers_of_finalize {m : Int} {s t : State} (h : execFinalize m s = .next t) : Answers (.finalize m) s t := by
  refine answers_of_guard h fun hp ho => ?_
  split at ho
  · exact answers_of_raise ho
  · exact answers_of_complete ho (.finalize hp ‹_›)

theorem answers_of_encodeSymbol {m : Int} {s t : State} (h : execEncodeSymbol m s = .next t) :
    Answers (.encodeSymbol m) s t := by
  refine answers_of_guard h fun hl ho => ?_
  obtain ⟨hp, hd⟩ := State.drawsDone_iff.1 hl
  split at ho
  · exact answers_of_raise ho
  · exact answers_of_withDataCodewords ho fun _ hlen hw => .encodeSymbol hp hd ‹_› hlen hw

/-- Everything a command can answer when it answers a next state. -/
theorem exec_next {i : Instr} {s t : State} (h : exec i s = .next t) : Answers i s t := by
  cases i with
  | gfMul x y => exact answers_of_complete h (.gfMul x y)
  | rsDivisor degree => exact answers_of_rsDivisor h
  | rsRemainder off len => exact answers_of_rsRemainder h
  | config v e => exact answers_of_config h
  | eccInterleave =>
    exact answers_of_guard h fun hp ho => answers_of_withDataCodewords ho fun _ hl hw => .eccInterleave hp hl hw
  | drawTiming =>
    exact answers_of_guard h fun hl ho => answers_of_complete ho (and_imp.2 .drawTiming (State.drawsDone_iff.1 hl))
  | drawFinders =>
    exact answers_of_guard h fun hl ho => answers_of_complete ho (and_imp.2 .drawFinders (State.drawsDone_iff.1 hl))
  | drawAlignment =>
    exact answers_of_guard h fun hl ho => answers_of_complete ho (and_imp.2 .drawAlignment (State.drawsDone_iff.1 hl))
  | drawFormat m => exact answers_of_drawFormat h
  | drawVersion =>
    exact answers_of_guard h fun hl ho => answers_of_complete ho (and_imp.2 .drawVersion (State.drawsDone_iff.1 hl))
  | drawFunctionPatterns =>
    exact answers_of_guard h fun hl ho =>
      answers_of_complete ho (and_imp.2 .drawFunctionPatterns (State.drawsDone_iff.1 hl))
  | drawCodewords => exact answers_of_guard h fun hp ho => answers_of_complete ho (.drawCodewords hp)
  | applyMask m => exact answers_of_applyMask h
  | penalty => exact answers_of_penalty h
  | finalize m => exact answers_of_finalize h
  | encodeSymbol m => exact answers_of_encodeSymbol h
  | getModule x y => exact answers_of_complete h (.getModule x y)

end Sys2Proof.Machine
end

section
/-! SUPPORT. What the commands leave unchanged: the frames of FINALIZE and ENCODE, and the symbol registers. -/
namespace Sys2Proof.Machine

/-! ### Frames of the composite bodies -/

/-- The trials of `chooseMask` (R262) change only the two grids. -/
theorem trials_frame (is : List (Fin 8)) (s : State) :
    ∃ m f : Grid, (trials is s).2 = { s with gridM := m, gridF := f } := by
  induction is generalizing s with
  | nil => exact ⟨s.gridM, s.gridF, rfl⟩
  | cons i is ih =>
    obtain ⟨m, f, h⟩ := ih (trialPass i s).2
    exact ⟨m, f, h.trans (by simp [trialPass, trialOn, drawFormat_eq])⟩

/-- The choice of a mask (R263) changes only the two grids, PSCORE and BEST_PENALTY. -/
theorem selectMask_frame (choice : MaskChoice) (s : State) :
    ∃ (m f : Grid) (p : Vector Word 8) (b : Word),
      (selectMask choice s).2 = { s with gridM := m, gridF := f, pscore := p, bestPenalty := b } := by
  cases choice with
  | fixed k => exact ⟨s.gridM, s.gridF, s.pscore, s.bestPenalty, rfl⟩
  | auto =>
    obtain ⟨m, f, h⟩ := trials_frame (List.finRange 8) s
    simp only [selectMask, h]
    exact ⟨m, f, _, _, rfl⟩

/-- The frame of FINALIZE (R263). -/
theorem finalizeBody_frame (choice : MaskChoice) (s : State) :
    ∃ (k : Fin 8) (m : Grid) (p : Vector Word 8) (b : Word),
      finalizeBody choice s =
        { s with mask := some k, gridM := m, gridF := Grid.clear, pscore := p, bestPenalty := b, phase := .final } := by
  obtain ⟨m, f, p, b, h⟩ := selectMask_frame choice s
  simp only [finalizeBody, h]
  exact ⟨_, _, p, b, rfl⟩

/-- DRAW_FUNCTION_PATTERNS as one draw (R214). -/
theorem drawFunctionPatterns_eq (s : State) :
    drawFunctionPatterns s =
      s.draw (timingWrites s.size.toNat ++ findersWrites s.size.toNat ++
        alignmentsWrites s.size.toNat s.version.toNat ++ formatWrites s.size.toNat (formatBits s.ecl 0) ++ versionWrites s.size.toNat s.version.toNat) := by
  simp [drawFunctionPatterns, drawTiming_eq, drawFinders_eq, drawAlignments_eq, drawFormat_eq, drawVersion_eq,
    State.draw_draw]

/-- The body of ECC_INTERLEAVE (R180) changes only the arrays and DEG, and reads neither of the grids. -/
theorem eccBody_draw (data : List Byte) (s : State) (ws : List ModuleWrite) :
    eccBody data (s.draw ws) = { s.draw ws with mem := (eccBody data s).mem, deg := (eccBody data s).deg } := by
  simp [eccBody, loadDivisor, loadRemainder, State.layout]

/-- The frame of ENCODE (R290): beside the grids, the arrays and DEG of ECC_INTERLEAVE. -/
theorem encodeBody_frame (choice : MaskChoice) (data : List Byte) (s : State) :
    ∃ (k : Fin 8) (m : Grid) (p : Vector Word 8) (b : Word),
      encodeBody choice data s =
        { s with
          mask := some k, gridM := m, gridF := Grid.clear, pscore := p, bestPenalty := b, funcDone := 0b11111,
          phase := .final, mem := (eccBody data s).mem, deg := (eccBody data s).deg } := by
  obtain ⟨k, m, p, b, h⟩ := finalizeBody_frame choice (placeCodewords (eccBody data (drawFunctionPatterns s)))
  exact ⟨k, m, p, b, by rw [encodeBody, h, drawFunctionPatterns_eq, eccBody_draw]; simp⟩

/-! ### The symbol registers -/

/-- The reset state with the symbol registers of `s` (R37 to R47). -/
def State.symbolRegs (s : State) : State :=
  { State.reset with
    version := s.version, ecl := s.ecl, size := s.size, nrc := s.nrc, nblk := s.nblk, ecclen := s.ecclen, ndc := s.ndc,
    nshort := s.nshort, sblen := s.sblen }

theorem configured_symbolRegs {s : State} : Configured s.symbolRegs ↔ Configured s :=
  ⟨fun ⟨h1, h2, h3, h4, h5, h6, h7, h8, h9⟩ => ⟨h1, h2, h3, h4, h5, h6, h7, h8, h9⟩,
    fun ⟨h1, h2, h3, h4, h5, h6, h7, h8, h9⟩ => ⟨h1, h2, h3, h4, h5, h6, h7, h8, h9⟩⟩

theorem unconfigured_symbolRegs {s : State} : Unconfigured s.symbolRegs ↔ Unconfigured s :=
  ⟨fun ⟨h1, h2, h3, h4, h5, h6, h7, h8, h9⟩ => ⟨h1, h2, h3, h4, h5, h6, h7, h8, h9⟩,
    fun ⟨h1, h2, h3, h4, h5, h6, h7, h8, h9⟩ => ⟨h1, h2, h3, h4, h5, h6, h7, h8, h9⟩⟩

/-- Every command but CONFIG leaves the symbol registers as they are. -/
theorem symbolRegs_of_completes {i : Instr} {s u : State} (hc : Completes s i u) (hi : ∀ v e, i ≠ .config v e) :
    u.symbolRegs = s.symbolRegs := by
  cases hc with
  | config e => exact absurd rfl (hi _ e)
  | finalize =>
    obtain ⟨k, m, p, b, h⟩ := finalizeBody_frame ‹_› s
    simp only [h, State.symbolRegs]
  | encodeSymbol =>
    obtain ⟨k, m, p, b, h⟩ := encodeBody_frame ‹_› ‹_› s
    simp only [h, State.symbolRegs]
  | _ =>
    simp [State.symbolRegs, eccBody, drawTiming_eq, drawFinders_eq, drawAlignments_eq, drawFormat_eq, drawVersion_eq,
      drawFunctionPatterns_eq]

/-- The values CONFIG writes fit their registers (R37 to R47). -/
theorem symbol_values_fit {v : Nat} (h : v ≤ 40) (e : Ecl) :
    rawCodewords v < 2 ^ 12 ∧ numBlocks e v < 2 ^ 7 ∧ eccPerBlock e v < 2 ^ 5 ∧ dataCodewords v e < 2 ^ 12 ∧
      shortBlocks v e < 2 ^ 7 ∧ shortBlockLength v e < 2 ^ 8 := by
  have table : ∀ v < 41,
      rawCodewords v < 2 ^ 12 ∧ numBlocks e v < 2 ^ 7 ∧ eccPerBlock e v < 2 ^ 5 ∧ dataCodewords v e < 2 ^ 12 ∧
      shortBlocks v e < 2 ^ 7 ∧ shortBlockLength v e < 2 ^ 8 := by
    cases e <;> decide +kernel
  exact table v (by omega)

/-- CONFIG leaves the symbol registers of its operands (R176). -/
theorem configured_configure {v : Nat} (pos : 1 ≤ v) (le : v ≤ 40) (e : Ecl) (s : State) :
    Configured (configure v e s) := by
  have hv : (configure v e s).version.toNat = v := by
    simp only [configure, BitVec.toNat_ofNat]
    omega
  obtain ⟨h1, h2, h3, h4, h5, h6⟩ := symbol_values_fit le e
  constructor <;> rw [hv]
  case version_pos => exact pos
  case version_le => exact le
  case size_eq =>
    simp only [configure, BitVec.toNat_ofNat, symbolSize]
    omega
  all_goals exact (BitVec.toNat_ofNat _ _).trans (Nat.mod_eq_of_lt ‹_›)

theorem Configured.size_bounds {s : State} (h : Configured s) : 21 ≤ s.size.toNat ∧ s.size.toNat ≤ 177 := by
  have := h.version_pos
  have := h.version_le
  rw [h.size_eq, symbolSize]
  omega

end Sys2Proof.Machine
end

section
/-! SUPPORT. The arrays: the clauses of the invariant on DIV, REM and CW, kept by every store the machine makes. -/
namespace Sys2Proof.Machine

/-- The bases of the arrays (R32), as numbers. -/
theorem bases_eq : divBase = 0x100 ∧ remBase = 0x200 ∧ dataBase = 0x1000 ∧ cwBase = 0x2000 := ⟨rfl, rfl, rfl, rfl⟩

theorem inData_iff {off : Nat} : inData off = true ↔ 0x1000 ≤ off ∧ off < 0x1B8C := decide_eq_true_iff

theorem inArray_div {j : Nat} (h : j < 256) : inArray (divBase + j) = true := by
  simp [inArray, inDiv, h]

theorem inArray_rem {j : Nat} (h : j < 256) : inArray (remBase + j) = true := by
  simp [inArray, inRem, h]

theorem inArray_cw {k : Nat} (h : k < 3708) : inArray (cwBase + k) = true := by
  simp [inArray, inCw, h]

/-- The invariant's clauses on the arrays: canonical form, zero tails of DIV and CW (R51, R54), REM[255] = 0 (R8). -/
structure ArraysFit (m : Memory) (deg nrc : Nat) : Prop where
  wf : m.wf = true
  div_zero : ∀ j, deg ≤ j → j < 256 → m.read (divBase + j) = some 0
  rem_last : m.read (remBase + 255) = some 0
  cw_zero : ∀ k, nrc ≤ k → k < 3708 → m.read (cwBase + k) = some 0

/-- DIV and DEG take the divisor of a degree up to 255 (R147). -/
theorem ArraysFit.store_divisor {m : Memory} {deg nrc d : Nat} (h : ArraysFit m deg nrc) (hd : d < 256) :
    ArraysFit (m.store divBase (pad256 (divisor d))) (BitVec.ofNat 8 d).toNat nrc := by
  obtain ⟨hdiv, hrem, -, hcw⟩ := bases_eq
  have out : ∀ a, divBase + 256 ≤ a → (m.store divBase (pad256 (divisor d))).read a = m.read a := fun a ha =>
    Memory.read_store_out (.inr (by simpa using ha)) m
  constructor
  case wf => exact Memory.store_wf h.wf _ _
  case div_zero =>
    intro j hj hlt
    rw [BitVec.toNat_ofNat, Nat.mod_eq_of_lt hd] at hj
    rw [Memory.read_store_in (by omega) (by rw [length_pad256]; omega) (inArray_div hlt), Nat.add_sub_cancel_left,
      getD_pad256 hlt, List.getD_eq_default _ _ (by simpa using hj)]
  case rem_last => rw [out _ (by omega), h.rem_last]
  case cw_zero => exact fun k hk hlt => by rw [out _ (by omega), h.cw_zero k hk hlt]

/-- REM takes a remainder of at most 255 bytes (R148). -/
theorem ArraysFit.store_remainder {m : Memory} {deg nrc : Nat} {r : List Byte} (h : ArraysFit m deg nrc)
    (hr : r.length ≤ 255) : ArraysFit (m.store remBase (pad256 r)) deg nrc := by
  obtain ⟨hdiv, hrem, -, hcw⟩ := bases_eq
  have out : ∀ a, a < remBase ∨ remBase + 256 ≤ a → (m.store remBase (pad256 r)).read a = m.read a := fun a ha =>
    Memory.read_store_out (by simpa using ha) m
  constructor
  case wf => exact Memory.store_wf h.wf _ _
  case div_zero => exact fun j hj hlt => by rw [out _ (by omega), h.div_zero j hj hlt]
  case rem_last =>
    rw [Memory.read_store_in (by omega) (by simp) (inArray_rem (by omega)), Nat.add_sub_cancel_left,
      getD_pad256 (by omega), List.getD_eq_default _ _ hr]
  case cw_zero => exact fun k hk hlt => by rw [out _ (by omega), h.cw_zero k hk hlt]

/-- A store from the start of CW that leaves zeros from `nrc'` up. -/
theorem ArraysFit.store_codewords {m : Memory} {deg nrc nrc' : Nat} {bs : List Byte} (h : ArraysFit m deg nrc)
    (hcw : ∀ k, nrc' ≤ k → k < 3708 → (m.store cwBase bs).read (cwBase + k) = some 0) :
    ArraysFit (m.store cwBase bs) deg nrc' := by
  obtain ⟨hdiv, hrem, -, hb⟩ := bases_eq
  have out : ∀ a, a < cwBase → (m.store cwBase bs).read a = m.read a := fun a ha => Memory.read_store_out (.inl ha) m
  constructor
  case wf => exact Memory.store_wf h.wf _ _
  case div_zero => exact fun j hj hlt => by rw [out _ (by omega), h.div_zero j hj hlt]
  case rem_last => rw [out _ (by omega), h.rem_last]
  case cw_zero => exact hcw

/-- CW takes at most NRC codewords (R180). -/
theorem ArraysFit.store_block {m : Memory} {deg nrc : Nat} {bs : List Byte} (h : ArraysFit m deg nrc)
    (hb : bs.length ≤ nrc) : ArraysFit (m.store cwBase bs) deg nrc :=
  h.store_codewords fun k hk hlt => by rw [Memory.read_store_out (by omega), h.cw_zero k hk hlt]

/-- CONFIG clears CW (R176). -/
theorem ArraysFit.clear_codewords {m : Memory} {deg nrc : Nat} (h : ArraysFit m deg nrc) (nrc' : Nat) :
    ArraysFit (m.store cwBase (List.replicate Config.cwArrayBytes 0)) deg nrc' :=
  h.store_codewords fun k _ hlt => by
    rw [Memory.read_store_in (by omega) (by simpa using hlt) (inArray_cw hlt)]
    simp

/-- The host writes DATA (R90): the other arrays stay. -/
theorem ArraysFit.store_data {m : Memory} {deg nrc off : Nat} {bs : List Byte} (h : ArraysFit m deg nrc)
    (hoff : inData off = true) (hn : bs.length ≤ 4) : ArraysFit (m.store off bs) deg nrc := by
  obtain ⟨hdiv, hrem, -, hcw⟩ := bases_eq
  have := inData_iff.1 hoff
  constructor
  case wf => exact Memory.store_wf h.wf _ _
  case div_zero => exact fun j hj hlt => by rw [Memory.read_store_out (by omega), h.div_zero j hj hlt]
  case rem_last => rw [Memory.read_store_out (by omega), h.rem_last]
  case cw_zero => exact fun k hk hlt => by rw [Memory.read_store_out (by omega), h.cw_zero k hk hlt]

/-! ### The body of ECC_INTERLEAVE (R180) -/

/-- A block (R177) is the data bytes it takes, a pad byte when it is short, and its ECC. -/
theorem length_makeBlock_le {l : Layout} {g dat : List Byte} {i : Nat}
    (h : dat.length ≤ l.shortData + (if i < l.nshort then 0 else 1)) :
    (makeBlock l g i dat).length ≤ l.shortData + 1 + g.length := by
  unfold makeBlock
  split at h
  · simp [*]
    omega
  · simp [*]

theorem length_of_mem_splitFrom {l : Layout} {g b data : List Byte} {n i : Nat} (h : b ∈ splitFrom l g n i data) :
    b.length ≤ l.shortData + 1 + g.length := by
  induction n generalizing i data with
  | zero => simp [splitFrom] at h
  | succ n ih =>
    rcases List.mem_cons.1 h with rfl | h
    · exact length_makeBlock_le (by simp)
    · exact ih h

/-- The ECC of the last block is no longer than the divisor of ECCLEN. -/
theorem length_lastEcc_le (l : Layout) (data : List Byte) : (lastEcc l (splitBlocks l data)).length ≤ l.ecclen := by
  rw [lastEcc, List.length_drop]
  cases hb : (splitBlocks l data).getLast? with
  | none => simp
  | some b =>
    have := length_of_mem_splitFrom (List.mem_of_getLast? hb)
    simp at this ⊢
    omega

theorem arraysFit_eccBody {s : State} (h : ArraysFit s.mem s.deg.toNat s.nrc.toNat) (data : List Byte) :
    ArraysFit (eccBody data s).mem (eccBody data s).deg.toNat s.nrc.toNat := by
  have hecc : s.ecclen.toNat < 256 := by have := s.ecclen.isLt; omega
  have hlast := length_lastEcc_le s.layout data
  exact ((h.store_block (by simp)).store_divisor hecc).store_remainder (hlast.trans (by simp [State.layout]; omega))

/-- Every completed command keeps the clauses on the arrays: the degree of a decoded RS_DIVISOR is a byte. -/
theorem arraysFit_of_completes {i : Instr} {s u : State} (hc : Completes s i u) (hi : i.wellFormed = true)
    (h : ArraysFit s.mem s.deg.toNat s.nrc.toNat) : ArraysFit u.mem u.deg.toNat u.nrc.toNat := by
  cases hc with
  | rsDivisor => exact h.store_divisor (by simpa [Instr.wellFormed, fitsU8] using hi)
  | rsRemainder =>
    refine h.store_remainder ?_
    simp [State.divisorBytes]
    omega
  | config e => exact h.clear_codewords _
  | eccInterleave => exact arraysFit_eccBody h _
  | finalize =>
    obtain ⟨k, m, p, b, hb⟩ := finalizeBody_frame ‹_› s
    rw [hb]
    exact h
  | encodeSymbol =>
    obtain ⟨k, m, p, b, hb⟩ := encodeBody_frame ‹_› ‹_› s
    rw [hb]
    exact arraysFit_eccBody h _
  | drawFunctionPatterns => simpa [drawFunctionPatterns_eq] using h
  | _ => exact h

end Sys2Proof.Machine
end

section
/-! SUPPORT. Which cells the draws, the masks and the placement of codewords reach. -/
namespace Sys2Proof.Machine

/-! ### The cells of a list of draws -/

/-- Some write of `ws` is to the cell (x, y). -/
def Covers (ws : List ModuleWrite) (x y : Nat) : Prop := ∃ w ∈ ws, w.x = x ∧ w.y = y

@[simp] theorem covers_nil (x y : Nat) : ¬Covers [] x y := by simp [Covers]

@[simp] theorem covers_append (us ws : List ModuleWrite) (x y : Nat) :
    Covers (us ++ ws) x y ↔ Covers us x y ∨ Covers ws x y := by
  simp [Covers, or_and_right, exists_or]

/-- Every write of `ws` is to a cell of the symbol. -/
def WritesInside (size : Nat) (ws : List ModuleWrite) : Prop := ∀ w ∈ ws, w.x < size ∧ w.y < size

theorem WritesInside.append {size : Nat} {us ws : List ModuleWrite} (hu : WritesInside size us)
    (hw : WritesInside size ws) : WritesInside size (us ++ ws) := fun w h =>
  (List.mem_append.1 h).elim (hu w) (hw w)

theorem writesInside_timing {size : Nat} (h : 7 ≤ size) : WritesInside size (timingWrites size) := by
  intro w hw
  obtain ⟨i, hi, hw⟩ := List.mem_flatMap.1 hw
  have := List.mem_range.1 hi
  rcases List.mem_pair.1 hw with rfl | rfl <;> simp only <;> omega

theorem writesInside_square (size r : Nat) (dark : Nat → Bool) (cx cy : Int) :
    WritesInside size (squareWrites size r dark cx cy) := by
  intro w hw
  simp only [squareWrites, List.mem_flatMap, List.mem_filterMap, Option.ite_none_right_eq_some, Option.some.injEq] at hw
  obtain ⟨dy, -, dx, -, hb, rfl⟩ := hw
  simp only
  omega

theorem writesInside_finders (size : Nat) : WritesInside size (findersWrites size) :=
  ((writesInside_square _ _ _ _ _).append (writesInside_square _ _ _ _ _)).append (writesInside_square _ _ _ _ _)

theorem writesInside_alignments (size v : Nat) : WritesInside size (alignmentsWrites size v) := by
  intro w hw
  obtain ⟨c, -, hw⟩ := List.mem_flatMap.1 hw
  exact writesInside_square _ _ _ _ _ w hw

/-- `drawFormat` by format bit: each copy puts bit `i` at its cell, then comes the dark module (R209). -/
theorem formatWrites_eq (size : Nat) (b : BitVec 15) :
    formatWrites size b =
      ((List.range 15).map fun i => ⟨(formatCell i).1, (formatCell i).2, b.getLsbD i⟩) ++
      ((List.range 15).map fun i => ⟨(formatCell2 size i).1, (formatCell2 size i).2, b.getLsbD i⟩) ++
      [⟨8, size - 8, true⟩] := by
  simp only [formatWrites, List.range_succ, List.range_zero]
  rfl

/-- The 31 format cells are the cells that `drawFormat` writes (R209). -/
theorem covers_formatWrites (size : Nat) (b : BitVec 15) (x y : Nat) :
    Covers (formatWrites size b) x y ↔ isFormatCell size x y := by
  simp only [formatWrites_eq, covers_append]
  simp [Covers, isFormatCell, Prod.ext_iff, and_or_left, exists_or, eq_comm, or_assoc]

theorem writesInside_format {size : Nat} (h : 15 ≤ size) (b : BitVec 15) : WritesInside size (formatWrites size b) := by
  intro w hw
  obtain ⟨i, hi, hxy⟩ | hxy := (covers_formatWrites size b w.x w.y).1 ⟨w, hw, rfl, rfl⟩
  · simp only [formatCell, formatCell2] at hxy
    grind
  · rw [Prod.mk.injEq] at hxy
    omega

/-- From version 7 on the 36 version cells are the cells that `drawVersion` writes (R212). -/
theorem covers_versionWrites (size v x y : Nat) : Covers (versionWrites size v) x y ↔ isVersionCell size v x y := by
  unfold Covers versionWrites isVersionCell
  by_cases hv : v < 7
  · simp [hv]
  · simp [hv, Nat.not_lt.1 hv, List.mem_flatMap, or_and_right, exists_or, eq_comm, and_or_left]

theorem writesInside_version {size : Nat} (h : 11 ≤ size) (v : Nat) : WritesInside size (versionWrites size v) := by
  intro w hw
  obtain ⟨-, i, hi, hxy⟩ := (covers_versionWrites size v w.x w.y).1 ⟨w, hw, rfl, rfl⟩
  simp only [Prod.mk.injEq] at hxy
  omega

/-- No format cell is a version cell (R209, R212). -/
theorem not_isFormatCell_of_isVersionCell {size v x y : Nat} (hs : 45 ≤ size) (h : isVersionCell size v x y) :
    ¬isFormatCell size x y := by
  obtain ⟨-, i, hi, hxy⟩ := h
  rintro (⟨j, hj, hc⟩ | hc)
  · simp only [formatCell, formatCell2] at hc
    grind
  · simp only [Prod.mk.injEq] at hxy hc
    omega

/-! ### Grids that are light outside the symbol (R55) -/

/-- Every cell outside the symbol is light. -/
def LightOutside (size : Nat) (g : Grid) : Prop := ∀ x y, size ≤ x ∨ size ≤ y → g.get x y = false

theorem lightOutside_clear (size : Nat) : LightOutside size Grid.clear := fun x y _ => Grid.get_clear x y

theorem LightOutside.set {size : Nat} {g : Grid} (h : LightOutside size g) {x y : Nat} (hx : x < size) (hy : y < size)
    (d : Bool) : LightOutside size (g.set x y d) := fun a b hab => by
  rw [Grid.get_set, if_neg (by omega), h a b hab]

theorem LightOutside.drawAll {size : Nat} {ws : List ModuleWrite} {c : Canvas} (hm : LightOutside size c.m)
    (hf : LightOutside size c.f) (hw : WritesInside size ws) :
    LightOutside size (drawAll ws c).m ∧ LightOutside size (drawAll ws c).f := by
  induction ws generalizing c with
  | nil => exact ⟨hm, hf⟩
  | cons w ws ih =>
    obtain ⟨hx, hy⟩ := hw w List.mem_cons_self
    exact ih (hm.set hx hy _) (hf.set hx hy _) fun v hv => hw v (List.mem_cons_of_mem _ hv)

theorem LightOutside.applyMask {s : State} (h : LightOutside s.size.toNat s.gridM) (k : Fin 8) :
    LightOutside s.size.toNat (applyMask k s).gridM := fun x y hxy => by
  have hn : ¬(x < min s.size.toNat 177 ∧ y < min s.size.toNat 177) := by omega
  rw [applyMask_gridM, Grid.get_xor, maskCells, Grid.get_ofCells, decide_eq_false hn, h x y hxy]
  rfl

/-! ### The placement of codewords (R230 to R232) -/

theorem mem_rightColumns {fuel right r : Nat} (h : r ∈ rightColumns fuel right) : 1 ≤ r ∧ r ≤ right := by
  induction fuel generalizing right with
  | zero => simp [rightColumns] at h
  | succ fuel ih =>
    rw [rightColumns] at h
    split at h
    · simp at h
    · split at h <;> rcases List.mem_cons.1 h with rfl | h
      · omega
      · have := ih h
        omega
      · omega
      · have := ih h
        omega

/-- The scan stays inside the symbol. -/
theorem mem_scan {size : Nat} {c : Nat × Nat} (h : c ∈ scan size) : c.1 < size ∧ c.2 < size := by
  obtain ⟨r, hr, hc⟩ := List.mem_flatMap.1 h
  obtain ⟨k, hk, hc⟩ := List.mem_flatMap.1 hc
  have := mem_rightColumns hr
  have := List.mem_range.1 hk
  rcases List.mem_pair.1 hc with rfl | rfl <;> simp only <;> split <;> omega

/-- Placing bits touches only cells of the list. -/
theorem get_foldl_set_of_notMem {cells : List ((Nat × Nat) × Bool)} {x y : Nat} (h : ∀ c ∈ cells, c.1 ≠ (x, y))
    (g : Grid) : (cells.foldl (fun g p => g.set p.1.1 p.1.2 p.2) g).get x y = g.get x y := by
  induction cells generalizing g with
  | nil => rfl
  | cons c cells ih =>
    rw [List.foldl_cons, ih fun d hd => h d (List.mem_cons_of_mem _ hd), Grid.get_set, if_neg]
    rintro ⟨rfl, rfl, -⟩
    exact h c List.mem_cons_self rfl

/-- Only data cells of the symbol receive codeword bits (R232). -/
theorem get_placeBits_of_not_dataCell {m f : Grid} {size x y : Nat} (bits : List Bool)
    (h : f.get x y = true ∨ size ≤ x ∨ size ≤ y) : (placeBits m f size bits).get x y = m.get x y := by
  refine get_foldl_set_of_notMem (fun c hc hxy => ?_) m
  have hcell := (List.of_mem_zip (a := c.1) (b := c.2) hc).1
  rw [hxy] at hcell
  obtain ⟨hscan, hdata⟩ := List.mem_filter.1 hcell
  have := mem_scan hscan
  rcases h with h | h | h
  · simp [h] at hdata
  · omega
  · omega

theorem LightOutside.placeBits {m f : Grid} {size : Nat} (h : LightOutside size m) (bits : List Bool) :
    LightOutside size (placeBits m f size bits) := fun x y hxy => by
  rw [get_placeBits_of_not_dataCell bits (.inr hxy), h x y hxy]

/-! ### The grids of a state -/

/-- The symbol has size `n`, and M and F are light outside it (R55, R56). -/
structure GridsInside (n : Nat) (s : State) : Prop where
  size : s.size.toNat = n
  m : LightOutside n s.gridM
  f : LightOutside n s.gridF

theorem GridsInside.draw {n : Nat} {s : State} (h : GridsInside n s) {ws : List ModuleWrite}
    (hw : WritesInside n ws) : GridsInside n (s.draw ws) :=
  have hdrawn := LightOutside.drawAll (c := s.canvas) h.m h.f hw
  ⟨h.size, hdrawn.1, hdrawn.2⟩

theorem GridsInside.applyMask {n : Nat} {s : State} (h : GridsInside n s) (k : Fin 8) :
    GridsInside n (applyMask k s) := by
  obtain ⟨rfl, hm, hf⟩ := h
  exact ⟨rfl, hm.applyMask k, hf⟩

theorem GridsInside.placeCodewords {n : Nat} {s : State} (h : GridsInside n s) : GridsInside n (placeCodewords s) := by
  obtain ⟨rfl, hm, hf⟩ := h
  exact ⟨rfl, hm.placeBits _, hf⟩

theorem GridsInside.drawFormat {n : Nat} {s : State} (h : GridsInside n s) (hn : 15 ≤ n) (k : Fin 8) :
    GridsInside n (drawFormat k s) := by
  rw [drawFormat_eq, h.size]
  exact h.draw (writesInside_format hn _)

theorem GridsInside.drawVersion {n : Nat} {s : State} (h : GridsInside n s) (hn : 15 ≤ n) :
    GridsInside n (drawVersion s) := by
  rw [drawVersion_eq, h.size]
  exact h.draw (writesInside_version (by omega) _)

theorem GridsInside.drawTiming {n : Nat} {s : State} (h : GridsInside n s) (hn : 15 ≤ n) :
    GridsInside n (drawTiming s) := by
  rw [drawTiming_eq, h.size]
  exact h.draw (writesInside_timing (by omega))

theorem GridsInside.drawFinders {n : Nat} {s : State} (h : GridsInside n s) : GridsInside n (drawFinders s) := by
  rw [drawFinders_eq, h.size]
  exact h.draw (writesInside_finders n)

theorem GridsInside.drawAlignments {n : Nat} {s : State} (h : GridsInside n s) :
    GridsInside n (drawAlignments s) := by
  rw [drawAlignments_eq, h.size]
  exact h.draw (writesInside_alignments n _)

theorem GridsInside.drawFunctionPatterns {n : Nat} {s : State} (h : GridsInside n s) (hn : 15 ≤ n) :
    GridsInside n (drawFunctionPatterns s) :=
  ((((h.drawTiming hn).drawFinders).drawAlignments).drawFormat hn 0).drawVersion hn

theorem GridsInside.trials {n : Nat} {s : State} (h : GridsInside n s) (hn : 15 ≤ n) (is : List (Fin 8)) :
    GridsInside n (trials is s).2 := by
  induction is generalizing s with
  | nil => exact h
  | cons i is ih => exact ih (((h.applyMask i).drawFormat hn i).applyMask i)

theorem GridsInside.selectMask {n : Nat} {s : State} (h : GridsInside n s) (hn : 15 ≤ n) (choice : MaskChoice) :
    GridsInside n (selectMask choice s).2 := by
  cases choice with
  | fixed k => exact h
  | auto =>
    obtain ⟨hsize, hm, hf⟩ := h.trials hn (List.finRange 8)
    simp only [Machine.selectMask]
    exact ⟨hsize, hm, hf⟩

theorem GridsInside.finalizeBody {n : Nat} {s : State} (h : GridsInside n s) (hn : 15 ≤ n) (choice : MaskChoice) :
    GridsInside n (finalizeBody choice s) :=
  have hdrawn := (((h.selectMask hn choice).applyMask (Machine.selectMask choice s).1).drawFormat hn
    (Machine.selectMask choice s).1).drawVersion hn
  ⟨hdrawn.size, hdrawn.m, lightOutside_clear n⟩

theorem GridsInside.eccBody {n : Nat} {s : State} (h : GridsInside n s) (data : List Byte) :
    GridsInside n (eccBody data s) := ⟨h.size, h.m, h.f⟩

theorem GridsInside.encodeBody {n : Nat} {s : State} (h : GridsInside n s) (hn : 15 ≤ n) (choice : MaskChoice)
    (data : List Byte) : GridsInside n (encodeBody choice data s) :=
  have hfinal := (((h.drawFunctionPatterns hn).eccBody data).placeCodewords).finalizeBody hn choice
  ⟨hfinal.size, hfinal.m, hfinal.f⟩

end Sys2Proof.Machine
end

section
/-! SUPPORT. What a step does to the state the invariants speak of, and the packaged induction over the steps. -/
namespace Sys2Proof.Machine

/-! ### What the invariants read -/

/-- `s` with every field that no clause on the construction of a symbol reads at its reset value. -/
def State.construction (s : State) : State :=
  { s with
    err := .ok, result := 0, dataLen := 0, bestPenalty := 0, pscore := Vector.replicate 8 0, pend := none,
    params := Params.default, hosts := 1, inputs := [], sched := [], readLog := [] }

/-- The reset state with ERR, PEND and the host's side of `s`: DATA_LEN and the model's own fields. -/
def State.hostPart (s : State) : State :=
  { State.reset with
    err := s.err, dataLen := s.dataLen, pend := s.pend, params := s.params, hosts := s.hosts, inputs := s.inputs,
    sched := s.sched, readLog := s.readLog }

/-- The body of a command writes neither ERR and PEND nor the host's side. -/
theorem hostPart_of_completes {i : Instr} {s u : State} (hc : Completes s i u) : u.hostPart = s.hostPart := by
  cases hc with
  | finalize =>
    obtain ⟨k, m, p, b, h⟩ := finalizeBody_frame ‹_› s
    simp only [h, State.hostPart]
  | encodeSymbol =>
    obtain ⟨k, m, p, b, h⟩ := encodeBody_frame ‹_› ‹_› s
    simp only [h, State.hostPart]
  | _ =>
    simp [State.hostPart, configure, eccBody, drawTiming_eq, drawFinders_eq, drawAlignments_eq, drawFormat_eq,
      drawVersion_eq, drawFunctionPatterns_eq]

/-! ### Steps -/

/-- The operands of a decoded command fit their fields (R112). -/
theorem wellFormed_of_decode {w : Word} {i : Instr} (h : decode w = .ok i) : i.wellFormed = true := by
  have guarded : ∀ {ok j}, guardReserved ok w j = .ok i → j.wellFormed = true → i.wellFormed = true := by
    intro ok j hj
    unfold guardReserved at hj
    split at hj
    · cases hj
      exact id
    · cases hj
  have u12 : ∀ f : BitVec 12, fitsU12 f.toNat = true := fun f => decide_eq_true f.isLt
  have s12 : ∀ f : BitVec 12, fitsS12 f.toInt = true := fun f =>
    decide_eq_true ⟨BitVec.le_toInt f, Int.le_sub_one_of_lt (BitVec.toInt_lt (x := f))⟩
  unfold decode at h
  split at h
  case h_3 => cases h; simp [Instr.wellFormed, u12]
  case h_17 => cases h; simp [Instr.wellFormed, s12]
  case h_18 => cases h
  all_goals refine guarded h ?_
  all_goals simp [Instr.wellFormed, u12, s12]
  exact decide_eq_true (BitVec.isLt _)

/-- The accesses that are no access error are bytes and words (R82). -/
theorem le_four_of_accessible {off n : Nat} (h : accessError off n = false) : n ≤ 4 := by
  simp only [accessError, Bool.not_eq_false', Bool.or_eq_true, Bool.and_eq_true, beq_iff_eq] at h
  omega

/-- What one event of the host's queue does: nothing the invariants read, a write of up to four bytes to DATA, or the
platform's reset. -/
theorem takeInput_next {inp : Input} {s t : State} (h : takeInput inp s = .next t) :
    (t.construction = s.construction ∧ t.err = s.err) ∨
    (∃ off n v, inData off = true ∧ n ≤ 4 ∧ t = { s with mem := s.mem.store off (bytesOfWord n v) }) ∨
    t = platformReset s := by
  cases inp with
  | read off n =>
    simp only [takeInput] at h
    split at h
    · cases h
      exact .inl ⟨rfl, rfl⟩
    · cases h
  | write off n v =>
    simp only [takeInput] at h
    obtain ⟨-, he⟩ | ⟨-, -, he⟩ | ⟨ha, -, ⟨-, he⟩ | ⟨-, he⟩ | ⟨hd, he⟩ | ⟨-, -, -, he⟩⟩ := hostWrite_cases off n v s
    all_goals rw [he] at h; cases h
    · exact .inl ⟨rfl, rfl⟩
    · exact .inl ⟨rfl, rfl⟩
    · exact .inr (.inl ⟨off, n, v, hd, le_four_of_accessible ha, rfl⟩)
    · exact .inl ⟨rfl, rfl⟩
  | poll =>
    simp only [takeInput] at h
    split at h <;> cases h <;> exact .inl ⟨rfl, rfl⟩
  | reset =>
    cases h
    exact .inr (.inr rfl)

/-- What holds of a state is kept by every step when it does not depend on the fields outside the construction, holds
after reset, and is kept by host writes to DATA and by every completed command. ERR may change, but not to the reserved
code 6. -/
theorem step_keeps {P : State → Prop}
    (same : ∀ {s t : State}, t.construction = s.construction → t.err = s.err ∨ t.err ≠ .inputEncodingError → P s → P t)
    (store : ∀ {s : State} {off n : Nat} {v : Word}, inData off = true → n ≤ 4 → P s →
      P { s with mem := s.mem.store off (bytesOfWord n v) })
    (reset : ∀ s : State, P (platformReset s))
    (command : ∀ {s u : State} {i : Instr}, i.wellFormed = true → Completes s i u → P s → P u)
    {s t : State} (h : step s = .next t) (hs : P s) : P t := by
  obtain ⟨-, rest, -, ⟨w, -, hw⟩ | ⟨inp, more, -, hi⟩ | rfl⟩ := step_next h
  · have hr : P { s with sched := rest } := same (s := s) rfl (.inl rfl) hs
    unfold runWord at hw
    split at hw
    · cases hw
      exact same (s := s) rfl (.inr (by simp)) hs
    · rename_i i hd
      obtain ⟨e, -, he, rfl⟩ | ⟨u, hc, rfl⟩ := exec_next hw
      · exact same (s := s) rfl (.inr he) hs
      · exact same (s := u) rfl (.inr (by simp)) (command (wellFormed_of_decode hd) hc hr)
  · have hr : P { s with sched := rest, inputs := more } := same (s := s) rfl (.inl rfl) hs
    obtain ⟨hc, he⟩ | ⟨off, n, v, hd, hn, rfl⟩ | rfl := takeInput_next hi
    · exact same hc (.inl he) hr
    · exact store hd hn hr
    · exact reset _
  · exact same (s := s) rfl (.inl rfl) hs

end Sys2Proof.Machine
end

section
/-! PROOF. Every step keeps the invariant: clause by clause for a completed command, then for the other moves. -/
namespace Sys2Proof.Machine

/-- The invariant's clauses on the symbol registers (R37 to R47, R176). -/
def SymbolFits (s : State) : Prop := (s.phase = .idle → Unconfigured s) ∧ (s.phase ≠ .idle → Configured s)

/-- The invariant's clauses on FUNC_DONE, TRIAL and MASK (R33, R34, R40). -/
def FlagsFit (s : State) : Prop :=
  funcDoneFits s.phase s.funcDone = true ∧ s.trial.isSome = (s.phase == .trial) ∧ s.mask.isSome = (s.phase == .final)

/-- The invariant is the conjunction of its clauses on registers, flags, ERR, arrays and grids. -/
theorem inv_iff {s : State} :
    Inv s ↔ SymbolFits s ∧ FlagsFit s ∧ s.err ≠ .inputEncodingError ∧ ArraysFit s.mem s.deg.toNat s.nrc.toNat ∧
      GridsInside s.size.toNat s :=
  ⟨fun h => ⟨⟨h.idle, h.symbol⟩, ⟨h.func_done, h.trial, h.mask⟩, h.err, ⟨h.mem_wf, h.div_zero, h.rem_last, h.cw_zero⟩,
      ⟨rfl, h.m_outside, h.f_outside⟩⟩,
    fun ⟨⟨hidle, hsymbol⟩, ⟨hdone, htrial, hmask⟩, herr, harrays, hgrids⟩ =>
      { mem_wf := harrays.wf, idle := hidle, symbol := hsymbol, func_done := hdone, trial := htrial, mask := hmask,
        err := herr, div_zero := harrays.div_zero, rem_last := harrays.rem_last, cw_zero := harrays.cw_zero,
        m_outside := hgrids.m, f_outside := hgrids.f }⟩

theorem configured_congr {s t : State} (h : t.symbolRegs = s.symbolRegs) : Configured t ↔ Configured s := by
  rw [← configured_symbolRegs, h, configured_symbolRegs]

theorem unconfigured_congr {s t : State} (h : t.symbolRegs = s.symbolRegs) : Unconfigured t ↔ Unconfigured s := by
  rw [← unconfigured_symbolRegs, h, unconfigured_symbolRegs]

theorem SymbolFits.congr {s t : State} (h : SymbolFits s) (regs : t.symbolRegs = s.symbolRegs)
    (phase : t.phase = .idle ↔ s.phase = .idle) : SymbolFits t := by
  rwa [SymbolFits, configured_congr regs, unconfigured_congr regs, Ne, phase]

/-- The invariant reads the construction and ERR only. -/
theorem Inv.congr {s t : State} (h : Inv s) (hc : t.construction = s.construction) (he : t.err ≠ .inputEncodingError) :
    Inv t := by
  obtain ⟨hsymbol, hflags, -, harrays, hsize, hm, hf⟩ := inv_iff.1 h
  have hregs : t.symbolRegs = s.symbolRegs := (congrArg State.symbolRegs hc :)
  have hphase : t.phase = s.phase := (congrArg State.phase hc :)
  refine inv_iff.2 ⟨hsymbol.congr hregs (by rw [hphase]), ?_, he, ?_, ?_⟩
  · exact (congrArg FlagsFit hc).mpr hflags
  · exact (congrArg (fun u : State => ArraysFit u.mem u.deg.toNat u.nrc.toNat) hc).mpr harrays
  · exact ⟨rfl, (congrArg (fun u : State => LightOutside u.size.toNat u.gridM) hc).mpr hm,
      (congrArg (fun u : State => LightOutside u.size.toNat u.gridF) hc).mpr hf⟩

/-! ### Completed commands -/

theorem symbolFits_of_completes {i : Instr} {s u : State} (hc : Completes s i u) (h : SymbolFits s) : SymbolFits u := by
  by_cases hconfig : ∃ v e, i = .config v e
  · obtain ⟨v, e, rfl⟩ := hconfig
    cases hc with
    | config e pos le => exact ⟨nofun, fun _ => configured_configure pos le e s⟩
  · refine h.congr (symbolRegs_of_completes hc fun v e hi => hconfig ⟨v, e, hi⟩) ?_
    cases hc with
    | config e => exact absurd ⟨_, e, rfl⟩ hconfig
    | finalize phase =>
      obtain ⟨k, m, p, b, hb⟩ := finalizeBody_frame ‹_› s
      simp [hb, phase]
    | encodeSymbol phase =>
      obtain ⟨k, m, p, b, hb⟩ := encodeBody_frame ‹_› ‹_› s
      simp [hb, phase]
    | redrawFormat => simp [drawFormat_eq]
    | _ => simp [drawTiming_eq, drawFinders_eq, drawAlignments_eq, drawFormat_eq, *]

theorem flagsFit_of_completes {i : Instr} {s u : State} (hc : Completes s i u) (h : FlagsFit s) : FlagsFit u := by
  cases hc with
  | config => exact ⟨rfl, rfl, rfl⟩
  | drawTiming phase done | drawFinders phase done | drawAlignment phase done | drawFormat phase done
  | drawVersion phase done | drawFunctionPatterns phase done =>
    simp_all [FlagsFit, funcDoneFits, drawTiming_eq, drawFinders_eq, drawAlignments_eq, drawFormat_eq, drawVersion_eq,
      drawFunctionPatterns_eq]
  | eccInterleave phase | drawCodewords phase | applyMask phase | undoMask phase =>
    simp_all [FlagsFit, funcDoneFits, eccBody]
  | finalize phase =>
    obtain ⟨k, m, p, b, hb⟩ := finalizeBody_frame ‹_› s
    simp_all [FlagsFit, funcDoneFits]
  | encodeSymbol phase =>
    obtain ⟨k, m, p, b, hb⟩ := encodeBody_frame ‹_› ‹_› s
    simp_all [FlagsFit, funcDoneFits]
  | _ => exact h

theorem GridsInside.congr {n : Nat} {s t : State} (h : GridsInside n s) (size : t.size = s.size)
    (m : t.gridM = s.gridM) (f : t.gridF = s.gridF) : GridsInside n t :=
  ⟨size ▸ h.size, m ▸ h.m, f ▸ h.f⟩

theorem GridsInside.at_size {n : Nat} {s : State} (h : GridsInside n s) : GridsInside s.size.toNat s := by
  obtain ⟨rfl, hm, hf⟩ := h
  exact ⟨rfl, hm, hf⟩

theorem gridsInside_of_completes {i : Instr} {s u : State} (hc : Completes s i u) (hs : SymbolFits s)
    (h : GridsInside s.size.toNat s) : GridsInside u.size.toNat u := by
  have large : s.phase ≠ .idle → 15 ≤ s.size.toNat := fun hp => Nat.le_trans (by decide) (hs.2 hp).size_bounds.1
  cases hc
  case config => exact ⟨rfl, lightOutside_clear _, lightOutside_clear _⟩
  all_goals refine GridsInside.at_size (n := s.size.toNat) ?_
  case eccInterleave data _ _ _ => exact (h.eccBody data).congr rfl rfl rfl
  case drawTiming phase _ => exact (h.drawTiming (large (by simp [phase]))).congr rfl rfl rfl
  case drawFinders => exact h.drawFinders.congr rfl rfl rfl
  case drawAlignment => exact h.drawAlignments.congr rfl rfl rfl
  case drawFormat phase _ _ => exact (h.drawFormat (large (by simp [phase])) _).congr rfl rfl rfl
  case redrawFormat phase _ => exact h.drawFormat (large (by rcases phase with hp | hp <;> simp [hp])) _
  case drawVersion phase _ => exact (h.drawVersion (large (by simp [phase]))).congr rfl rfl rfl
  case drawFunctionPatterns phase _ =>
    have hdrawn := h.drawFunctionPatterns (large (by simp [phase]))
    rw [drawFunctionPatterns_eq] at hdrawn ⊢
    exact hdrawn.congr rfl rfl rfl
  case drawCodewords => exact h.placeCodewords.congr rfl rfl rfl
  case applyMask | undoMask => exact (h.applyMask _).congr rfl rfl rfl
  case finalize phase _ => exact h.finalizeBody (large (by simp [phase])) _
  case encodeSymbol phase _ _ _ _ => exact h.encodeBody (large (by simp [phase])) _ _
  all_goals exact h.congr rfl rfl rfl

/-- A completed command keeps the invariant. -/
theorem inv_of_completes {i : Instr} {s u : State} (hi : i.wellFormed = true) (hc : Completes s i u) (h : Inv s) :
    Inv u := by
  obtain ⟨hsymbol, hflags, herr, harrays, hgrids⟩ := inv_iff.1 h
  have herr_eq : u.err = s.err := (congrArg State.err (hostPart_of_completes hc) :)
  exact inv_iff.2 ⟨symbolFits_of_completes hc hsymbol, flagsFit_of_completes hc hflags, herr_eq ▸ herr,
    arraysFit_of_completes hc hi harrays, gridsInside_of_completes hc hsymbol hgrids⟩

/-! ### The other moves -/

/-- A host write to DATA keeps the invariant. -/
theorem inv_store_data {s : State} {off n : Nat} {v : Word} (hoff : inData off = true) (hn : n ≤ 4) (h : Inv s) :
    Inv { s with mem := s.mem.store off (bytesOfWord n v) } := by
  obtain ⟨hsymbol, hflags, herr, harrays, hgrids⟩ := inv_iff.1 h
  exact inv_iff.2 ⟨hsymbol.congr rfl Iff.rfl, hflags, herr, harrays.store_data hoff (by simpa [bytesOfWord] using hn),
    hgrids.congr rfl rfl rfl⟩

theorem arraysFit_nil (deg nrc : Nat) : ArraysFit [] deg nrc where
  wf := rfl
  div_zero j _ hj := by simp [Memory.unlisted, inDiv, hj]
  rem_last := rfl
  cw_zero k _ hk := by simp [Memory.unlisted, inCw, hk]

/-- The platform's reset establishes the invariant (R340). -/
theorem inv_platformReset (s : State) : Inv (platformReset s) :=
  inv_iff.2 ⟨⟨fun _ => ⟨rfl, rfl, rfl, rfl, rfl, rfl, rfl, rfl, rfl⟩, fun h => absurd rfl h⟩, ⟨rfl, rfl, rfl⟩, nofun,
    arraysFit_nil _ _, rfl, lightOutside_clear _, lightOutside_clear _⟩

/-- The invariant does not depend on what a step changes outside the construction. -/
theorem inv_same {s t : State} (hc : t.construction = s.construction)
    (he : t.err = s.err ∨ t.err ≠ .inputEncodingError) (h : Inv s) : Inv t :=
  h.congr hc (he.elim (fun heq => heq ▸ h.err) id)

/-- Settles O57: each clause of the invariant is kept by every completed command, and the rest of a step changes nothing
it reads but the bytes of DATA. -/
theorem stepKeepsInvariant : Obligations.StepKeepsInvariant := by
  unfold Obligations.StepKeepsInvariant
  intro s t hs h
  exact step_keeps inv_same inv_store_data inv_platformReset inv_of_completes h hs

end Sys2Proof.Machine
end

section
/-! PROOF. Every step keeps F the exact record of the function cells drawn, and the version cells in place. -/
namespace Sys2Proof.Machine

/-! ### F as the record of the draws -/

theorem shadowExact_iff {s : State} :
    ShadowExact s ↔ ∀ x y, s.gridF.get x y = true ↔ s.phase ≠ .final ∧ Covers (drawnWrites s) x y := Iff.rfl

/-- The recorded cells, draw by draw; the format bits do not matter. -/
theorem covers_drawnWrites {s : State} {x y : Nat} :
    Covers (drawnWrites s) x y ↔
      (s.funcDone.getLsbD 0 = true ∧ Covers (timingWrites s.size.toNat) x y) ∨
      (s.funcDone.getLsbD 1 = true ∧ Covers (findersWrites s.size.toNat) x y) ∨
      (s.funcDone.getLsbD 2 = true ∧ Covers (alignmentsWrites s.size.toNat s.version.toNat) x y) ∨
      (s.funcDone.getLsbD 3 = true ∧ isFormatCell s.size.toNat x y) ∨
      (s.funcDone.getLsbD 4 = true ∧ isVersionCell s.size.toNat s.version.toNat x y) := by
  have covers_ite : ∀ (b : Bool) (ws : List ModuleWrite),
      Covers (if b then ws else []) x y ↔ b = true ∧ Covers ws x y :=
    fun b ws => by cases b <;> simp
  simp only [drawnWrites, covers_append, covers_ite, covers_formatWrites, covers_versionWrites, or_assoc]

theorem shadowExact_congr {s t : State} (h : t.construction = s.construction) : ShadowExact t ↔ ShadowExact s :=
  (congrArg ShadowExact h).to_iff

/-- With F clear, the record is exact when nothing is drawn or the symbol is finished. -/
theorem shadowExact_of_clear {s : State} (clear : s.gridF = Grid.clear) (h : s.phase = .final ∨ s.funcDone = 0) :
    ShadowExact s := by
  rw [shadowExact_iff, clear]
  rcases h with h | h <;> simp [h, drawnWrites]

/-- A change of phase short of the end keeps the record. -/
theorem ShadowExact.of_same_draws {s t : State} (h : ShadowExact s) (gridF : t.gridF = s.gridF)
    (drawn : drawnWrites t = drawnWrites s) (hs : s.phase ≠ .final) (ht : t.phase ≠ .final) : ShadowExact t := by
  rw [shadowExact_iff] at h ⊢
  simpa [gridF, drawn, hs, ht] using h

theorem covers_of_hits {ws : List ModuleWrite} {w : ModuleWrite} {x y : Nat} (hw : w ∈ ws) (h : w.hits x y = true) :
    Covers ws x y := by
  obtain ⟨hx, hy, -⟩ := of_decide_eq_true h
  exact ⟨w, hw, hx.symm, hy.symm⟩

/-- F after the draws `ws` inside the array. -/
theorem drawAll_f_iff {ws : List ModuleWrite} (h : WritesInside 177 ws) (c : Canvas) (x y : Nat) :
    (drawAll ws c).f.get x y = true ↔ c.f.get x y = true ∨ Covers ws x y := by
  rw [drawAll_f, Bool.or_eq_true, List.any_eq_true]
  refine or_congr Iff.rfl ⟨fun ⟨w, hw, hh⟩ => ?_, fun ⟨w, hw, hx, hy⟩ => ⟨w, hw, ?_⟩⟩
  · exact covers_of_hits hw hh
  · exact decide_eq_true ⟨hx.symm, hy.symm, h w hw⟩

/-- A draw keeps the record exact when FUNC_DONE comes to stand for the cells it adds. -/
theorem ShadowExact.draw {s t : State} {ws : List ModuleWrite} (h : ShadowExact s) (gridF : t.gridF = (s.draw ws).gridF)
    (inside : WritesInside 177 ws) (hs : s.phase ≠ .final) (ht : t.phase ≠ .final)
    (drawn : ∀ x y, Covers (drawnWrites t) x y ↔ Covers (drawnWrites s) x y ∨ Covers ws x y) : ShadowExact t := by
  rw [shadowExact_iff] at h ⊢
  intro x y
  have hold : s.gridF.get x y = true ↔ Covers (drawnWrites s) x y := by simpa [hs] using h x y
  rw [gridF, State.draw_gridF, drawAll_f_iff inside, drawn, State.canvas, hold]
  simp [ht]

theorem WritesInside.mono {m n : Nat} {ws : List ModuleWrite} (h : WritesInside m ws) (hmn : m ≤ n) :
    WritesInside n ws := fun w hw => ⟨(h w hw).1.trans_le hmn, (h w hw).2.trans_le hmn⟩

/-- From PHASE 2 on every draw is recorded (R33). -/
theorem Inv.funcDone_of_drawn {s : State} (h : Inv s)
    (hp : s.phase = .fixed ∨ s.phase = .ecc ∨ s.phase = .data ∨ s.phase = .trial) : s.funcDone = 0b11111 := by
  have := h.func_done
  rcases hp with hp | hp | hp | hp <;> simpa [hp, funcDoneFits] using this

/-- A completed command keeps F the record of the draws. -/
theorem shadowExact_of_completes {i : Instr} {s u : State} (hc : Completes s i u) (hinv : Inv s) (h : ShadowExact s) :
    ShadowExact u := by
  have bounds : s.phase ≠ .idle → 21 ≤ s.size.toNat ∧ s.size.toNat ≤ 177 := fun hp => (hinv.symbol hp).size_bounds
  cases hc with
  | config => exact shadowExact_of_clear rfl (.inr rfl)
  | eccInterleave phase => exact h.of_same_draws rfl rfl (by simp [phase]) nofun
  | drawCodewords phase => exact h.of_same_draws rfl rfl (by simp [phase]) nofun
  | applyMask phase => exact h.of_same_draws rfl rfl (by simp [phase]) nofun
  | undoMask phase => exact h.of_same_draws rfl rfl (by simp [phase]) nofun
  | finalize =>
    obtain ⟨k, m, p, b, hb⟩ := finalizeBody_frame ‹_› s
    exact shadowExact_of_clear (by rw [hb]) (.inl (by rw [hb]))
  | encodeSymbol =>
    obtain ⟨k, m, p, b, hb⟩ := encodeBody_frame ‹_› ‹_› s
    exact shadowExact_of_clear (by rw [hb]) (.inl (by rw [hb]))
  | drawTiming phase done =>
    obtain ⟨hlo, hhi⟩ := bounds (by simp [phase])
    refine h.draw rfl ((writesInside_timing (by omega)).mono hhi) (by simp [phase]) (by simp [phase, drawTiming_eq]) ?_
    simp [covers_drawnWrites, done, drawTiming_eq]
  | drawFinders phase done =>
    refine h.draw rfl ((writesInside_finders _).mono (bounds (by simp [phase])).2) (by simp [phase])
      (by simp [phase, drawFinders_eq]) ?_
    simp [covers_drawnWrites, done, drawFinders_eq]
  | drawAlignment phase done =>
    refine h.draw rfl ((writesInside_alignments _ _).mono (bounds (by simp [phase])).2) (by simp [phase])
      (by simp [phase, drawAlignments_eq]) ?_
    simp [covers_drawnWrites, done, drawAlignments_eq, or_assoc]
  | drawFormat phase done =>
    obtain ⟨hlo, hhi⟩ := bounds (by simp [phase])
    refine h.draw rfl ((writesInside_format (by omega) _).mono hhi) (by simp [phase])
      (by simp [phase, drawFormat_eq]) ?_
    simp [covers_drawnWrites, done, drawFormat_eq, covers_formatWrites, or_assoc]
  | redrawFormat phase =>
    have hp : s.phase ≠ .idle ∧ s.phase ≠ .final := by rcases phase with hp | hp <;> simp [hp]
    have done : s.funcDone = 0b11111 := hinv.funcDone_of_drawn (by tauto)
    obtain ⟨hlo, hhi⟩ := bounds hp.1
    refine h.draw rfl ((writesInside_format (by omega) _).mono hhi) hp.2 hp.2 fun x y => ?_
    simp [covers_drawnWrites, done, drawFormat_eq, covers_formatWrites]
    tauto
  | drawVersion phase done =>
    obtain ⟨hlo, hhi⟩ := bounds (by simp [phase])
    refine h.draw rfl ((writesInside_version (by omega) _).mono hhi) (by simp [phase]) nofun ?_
    simp [covers_drawnWrites, done, drawVersion_eq, covers_versionWrites, or_assoc]
  | drawFunctionPatterns phase done =>
    obtain ⟨hlo, hhi⟩ := bounds (by simp [phase])
    rw [drawFunctionPatterns_eq]
    have inside := (((((writesInside_timing (by omega)).append (writesInside_finders s.size.toNat)).append
      (writesInside_alignments _ s.version.toNat)).append (writesInside_format (by omega) (formatBits s.ecl 0))).append
        (writesInside_version (by omega) s.version.toNat))
    refine h.draw rfl (inside.mono hhi) (by simp [phase]) nofun ?_
    simp [covers_drawnWrites, done, covers_formatWrites, covers_versionWrites]
  | _ => exact h

/-! ### The patterns in place (R213) -/

theorem Configured.size_of_version {s : State} (h : Configured s) (hv : 7 ≤ s.version.toNat) : 45 ≤ s.size.toNat := by
  rw [h.size_eq, symbolSize]
  omega

/-- A mask leaves function cells alone (R251). -/
theorem get_applyMask_of_function {s : State} {x y : Nat} (k : Fin 8) (hs : s.size.toNat ≤ 177)
    (hf : s.gridF.get x y = true) : (applyMask k s).gridM.get x y = s.gridM.get x y := by
  simp [get_applyMask k s hs, hf, -applyMask_gridM]

/-- From version 7 on both copies of the version bits stand in M (R212). -/
def VersionBitsDrawn (s : State) : Prop :=
  7 ≤ s.version.toNat → ∀ i < 18,
    s.gridM.get (s.size.toNat - 11 + i % 3) (i / 3) = (versionBits s.version.toNat).getLsbD i ∧
    s.gridM.get (i / 3) (s.size.toNat - 11 + i % 3) = (versionBits s.version.toNat).getLsbD i

/-- With every draw recorded in F, the patterns are in place as soon as the version bits are. -/
theorem patternsInPlace_of_shadowExact {s : State} (h : ShadowExact s) (done : s.funcDone = 0b11111)
    (phase : s.phase ≠ .final) (hbits : VersionBitsDrawn s) : PatternsInPlace s := by
  have hf : ∀ {x y}, isFormatCell s.size.toNat x y ∨ isVersionCell s.size.toNat s.version.toNat x y →
      s.gridF.get x y = true := fun hxy => by
    refine (shadowExact_iff.1 h _ _).2 ⟨phase, covers_drawnWrites.2 ?_⟩
    simp [done, hxy]
  exact ⟨fun x y hxy => hf (.inl hxy), fun hv i hi =>
    ⟨hf (.inr ⟨hv, i, hi, .inl rfl⟩), hf (.inr ⟨hv, i, hi, .inr rfl⟩), hbits hv i hi⟩⟩

theorem PatternsInPlace.versionBitsDrawn {s : State} (h : PatternsInPlace s) : VersionBitsDrawn s := fun hv i hi =>
  (h.2 hv i hi).2.2

theorem PatternsInPlace.gridF_versionCell {s : State} (h : PatternsInPlace s) {x y : Nat}
    (hxy : isVersionCell s.size.toNat s.version.toNat x y) : s.gridF.get x y = true := by
  obtain ⟨hv, i, hi, hxy⟩ := hxy
  obtain ⟨hright, hbottom, -⟩ := h.2 hv i hi
  rcases hxy with hxy | hxy <;> cases hxy
  · exact hright
  · exact hbottom

/-- A change of M that leaves the version cells alone keeps the version bits. -/
theorem VersionBitsDrawn.of_same_cells {s t : State} (h : VersionBitsDrawn s) (version : t.version = s.version)
    (size : t.size = s.size)
    (cells : ∀ x y, isVersionCell s.size.toNat s.version.toNat x y → t.gridM.get x y = s.gridM.get x y) :
    VersionBitsDrawn t := by
  intro hv i hi
  rw [version] at hv
  rw [version, size, cells _ _ ⟨hv, i, hi, .inl rfl⟩, cells _ _ ⟨hv, i, hi, .inr rfl⟩]
  exact h hv i hi

/-- What `drawVersion` leaves at the version cells (R212): the two copies do not overlap. -/
theorem get_drawAll_versionWrites {size v i : Nat} (hv : 7 ≤ v) (hlo : 45 ≤ size) (hhi : size ≤ 177) (hi : i < 18)
    (c : Canvas) :
    (drawAll (versionWrites size v) c).m.get (size - 11 + i % 3) (i / 3) = (versionBits v).getLsbD i ∧
    (drawAll (versionWrites size v) c).m.get (i / 3) (size - 11 + i % 3) = (versionBits v).getLsbD i := by
  have writes : ∀ w, w ∈ versionWrites size v ↔ ∃ j < 18, w = ⟨size - 11 + j % 3, j / 3, (versionBits v).getLsbD j⟩ ∨
      w = ⟨j / 3, size - 11 + j % 3, (versionBits v).getLsbD j⟩ := fun w => by
    simp [versionWrites, Nat.not_lt.2 hv]
  constructor
  · refine drawAll_m_of_hit ⟨_, (writes _).2 ⟨i, hi, .inl rfl⟩, decide_eq_true ⟨rfl, rfl, ?_⟩⟩ ?_ c
    · simp only
      omega
    · intro w hw hhit
      have hxy := of_decide_eq_true hhit
      obtain ⟨j, hj, rfl | rfl⟩ := (writes w).1 hw <;> simp only at hxy ⊢
      · rw [show j = i by omega]
      · omega
  · refine drawAll_m_of_hit ⟨_, (writes _).2 ⟨i, hi, .inr rfl⟩, decide_eq_true ⟨rfl, rfl, ?_⟩⟩ ?_ c
    · simp only
      omega
    · intro w hw hhit
      have hxy := of_decide_eq_true hhit
      obtain ⟨j, hj, rfl | rfl⟩ := (writes w).1 hw <;> simp only at hxy ⊢
      · omega
      · rw [show j = i by omega]

/-- A draw that ends with `drawVersion` leaves the version bits. -/
theorem versionBitsDrawn_of_draw {s t : State} {c : Canvas} (h : Configured s) (version : t.version = s.version)
    (size : t.size = s.size) (gridM : t.gridM = (drawAll (versionWrites s.size.toNat s.version.toNat) c).m) :
    VersionBitsDrawn t := by
  intro hv i hi
  rw [version] at hv
  rw [version, size, gridM]
  exact get_drawAll_versionWrites hv (h.size_of_version hv) h.size_bounds.2 hi c

/-- In PHASE 2 to 5 a completed command leaves the version bits in M: DRAW_VERSION draws them last, and what comes after
writes data cells or format cells only. -/
theorem versionBitsDrawn_of_completes {i : Instr} {s u : State} (hc : Completes s i u) (hinv : Inv s)
    (h : PatternsKept s) (hp : u.phase = .fixed ∨ u.phase = .ecc ∨ u.phase = .data ∨ u.phase = .trial) :
    VersionBitsDrawn u := by
  cases hc with
  | config => simp [configure] at hp
  | drawTiming phase | drawFinders phase | drawAlignment phase | drawFormat phase =>
    simp [drawTiming_eq, drawFinders_eq, drawAlignments_eq, drawFormat_eq, phase] at hp
  | finalize =>
    obtain ⟨k, m, p, b, hb⟩ := finalizeBody_frame ‹_› s
    simp [hb] at hp
  | encodeSymbol =>
    obtain ⟨k, m, p, b, hb⟩ := encodeBody_frame ‹_› ‹_› s
    simp [hb] at hp
  | drawVersion phase => exact versionBitsDrawn_of_draw (hinv.symbol (by simp [phase])) rfl rfl rfl
  | drawFunctionPatterns phase =>
    rw [drawFunctionPatterns_eq]
    exact versionBitsDrawn_of_draw (hinv.symbol (by simp [phase])) rfl rfl (congrArg Canvas.m (drawAll_append _ _ _))
  | eccInterleave phase =>
    exact (h (.inl phase)).versionBitsDrawn.of_same_cells rfl rfl fun _ _ _ => rfl
  | drawCodewords phase =>
    have hin := h (.inr (.inl phase))
    exact hin.versionBitsDrawn.of_same_cells rfl rfl fun x y hxy =>
      get_placeBits_of_not_dataCell _ (.inl (hin.gridF_versionCell hxy))
  | applyMask phase | undoMask phase =>
    have hin := h (by simp [phase])
    exact hin.versionBitsDrawn.of_same_cells rfl rfl fun x y hxy =>
      get_applyMask_of_function _ (hinv.symbol (by simp [phase])).size_bounds.2 (hin.gridF_versionCell hxy)
  | redrawFormat phase =>
    have hconf : Configured s := hinv.symbol (by rcases phase with hq | hq <;> simp [hq])
    refine (h (by tauto)).versionBitsDrawn.of_same_cells rfl rfl fun x y hxy => ?_
    have hformat := not_isFormatCell_of_isVersionCell (hconf.size_of_version hxy.1) hxy
    exact drawAll_m_of_not_hit (fun w hw => Bool.eq_false_iff.2 fun hhit =>
      hformat ((covers_formatWrites _ _ _ _).1 (covers_of_hits hw hhit))) _
  | _ => exact (h hp).versionBitsDrawn.of_same_cells rfl rfl fun _ _ _ => rfl

/-- A completed command keeps the patterns in place in PHASE 2 to 5. -/
theorem patternsKept_of_completes {i : Instr} {s u : State} (hi : i.wellFormed = true) (hc : Completes s i u)
    (hinv : Inv s) (hshadow : ShadowExact s) (h : PatternsKept s) : PatternsKept u := fun hp =>
  patternsInPlace_of_shadowExact (shadowExact_of_completes hc hinv hshadow)
    ((inv_of_completes hi hc hinv).funcDone_of_drawn hp) (by rcases hp with hp | hp | hp | hp <;> simp [hp])
    (versionBitsDrawn_of_completes hc hinv h hp)

theorem patternsKept_congr {s t : State} (h : t.construction = s.construction) : PatternsKept t ↔ PatternsKept s :=
  (congrArg PatternsKept h).to_iff

/-- After a reset no symbol is under construction. -/
theorem patternsKept_platformReset (s : State) : PatternsKept (platformReset s) := fun hp => by
  simp [platformReset, State.reset] at hp

/-- Settles O58: a completed command draws what FUNC_DONE records and never writes a version cell again; the rest of a
step changes nothing that the two records read. -/
theorem stepKeepsShadowExact : Obligations.StepKeepsShadowExact := by
  unfold Obligations.StepKeepsShadowExact
  constructor
  · intro s t hinv hshadow h
    refine (step_keeps (P := fun s => Inv s ∧ ShadowExact s) ?_ ?_ ?_ ?_ h ⟨hinv, hshadow⟩).2
    · exact fun hc he hs => ⟨inv_same hc he hs.1, (shadowExact_congr hc).2 hs.2⟩
    · exact fun hd hn hs => ⟨inv_store_data hd hn hs.1, hs.2⟩
    · exact fun s => ⟨inv_platformReset s, shadowExact_of_clear rfl (.inr rfl)⟩
    · exact fun hi hc hs => ⟨inv_of_completes hi hc hs.1, shadowExact_of_completes hc hs.1 hs.2⟩
  · intro s t hinv hshadow hkept h
    refine (step_keeps (P := fun s => Inv s ∧ ShadowExact s ∧ PatternsKept s) ?_ ?_ ?_ ?_ h ⟨hinv, hshadow, hkept⟩).2.2
    · exact fun hc he hs => ⟨inv_same hc he hs.1, (shadowExact_congr hc).2 hs.2.1, (patternsKept_congr hc).2 hs.2.2⟩
    · exact fun hd hn hs => ⟨inv_store_data hd hn hs.1, hs.2⟩
    · exact fun s => ⟨inv_platformReset s, shadowExact_of_clear rfl (.inr rfl), patternsKept_platformReset s⟩
    · exact fun hi hc hs => ⟨inv_of_completes hi hc hs.1, shadowExact_of_completes hc hs.1 hs.2.1,
        patternsKept_of_completes hi hc hs.1 hs.2.1 hs.2.2⟩

end Sys2Proof.Machine
end

section
/-! PROOF. Commands leave the host's data alone, and the table of phases. -/
namespace Sys2Proof.Machine

/-! ### DATA and the host's side (R41, R53) -/

/-- The bytes of DATA and their written bits are the same. -/
def SameData (m m' : Memory) : Prop := ∀ off, inData off = true → m'.read off = m.read off

theorem SameData.store {m m' : Memory} (h : SameData m m') {off : Nat} {bs : List Byte}
    (out : off + bs.length ≤ dataBase ∨ cwBase ≤ off) : SameData m (m'.store off bs) := fun a ha => by
  obtain ⟨-, -, hdata, hcw⟩ := bases_eq
  have := inData_iff.1 ha
  rw [Memory.read_store_out (by omega), h a ha]

theorem sameData_eccBody (data : List Byte) (s : State) : SameData s.mem (eccBody data s).mem := by
  have hcw : SameData s.mem (s.mem.store cwBase ((interleave s.layout (splitBlocks s.layout data)).take s.nrc.toNat)) :=
    SameData.store (fun _ _ => rfl) (.inr (Nat.le_refl _))
  refine (hcw.store (off := divBase) (.inl ?_)).store (off := remBase) (.inl ?_) <;>
    simp [divBase, remBase, dataBase]

theorem sameData_of_completes {i : Instr} {s u : State} (hc : Completes s i u) : SameData s.mem u.mem := by
  have refl : SameData s.mem s.mem := fun _ _ => rfl
  cases hc with
  | rsDivisor => exact refl.store (.inl (by simp [divBase, dataBase]))
  | rsRemainder => exact refl.store (.inl (by simp [remBase, dataBase]))
  | config => exact refl.store (.inr (Nat.le_refl _))
  | eccInterleave => exact sameData_eccBody _ s
  | finalize =>
    obtain ⟨k, m, p, b, hb⟩ := finalizeBody_frame ‹_› s
    rw [hb]
    exact refl
  | encodeSymbol =>
    obtain ⟨k, m, p, b, hb⟩ := encodeBody_frame ‹_› ‹_› s
    rw [hb]
    exact sameData_eccBody _ s
  | drawFunctionPatterns => simpa [drawFunctionPatterns_eq] using refl
  | _ => exact refl

/-- Settles O14: a command that reports an error changes ERR and PEND only; the body of one that completes stores to DIV,
REM and CW only, and keeps the host's side. -/
theorem commandsKeepHostData : Obligations.CommandsKeepHostData := by
  unfold Obligations.CommandsKeepHostData
  intro i s t h
  obtain ⟨e, -, -, rfl⟩ | ⟨u, hc, rfl⟩ := exec_next h
  · exact ⟨fun _ _ => rfl, rfl, rfl, rfl, rfl, rfl, rfl⟩
  · have host := hostPart_of_completes hc
    have data := sameData_of_completes hc
    exact ⟨data, (congrArg State.dataLen host :), (congrArg State.params host :),
      (congrArg State.hosts host :), (congrArg State.inputs host :), (congrArg State.sched host :),
      (congrArg State.readLog host :)⟩

/-! ### The table of phases (R33) -/

/-- A command completes only where the table makes it legal, and leaves the phase the table names. -/
theorem phase_of_completes {i : Instr} {s u : State} (hc : Completes s i u) :
    legalPhase i s = true ∧ u.phase = phaseAfter i s := by
  cases hc with
  | finalize phase =>
    obtain ⟨k, m, p, b, hb⟩ := finalizeBody_frame ‹_› s
    simp [legalPhase, phaseAfter, hb, phase]
  | encodeSymbol phase done =>
    obtain ⟨k, m, p, b, hb⟩ := encodeBody_frame ‹_› ‹_› s
    simp [legalPhase, phaseAfter, hb, phase, done]
  | rsRemainder deg => simpa [legalPhase, phaseAfter] using deg
  | redrawFormat phase => rcases phase with hp | hp <;> simp [legalPhase, phaseAfter, hp, drawFormat_eq]
  | _ =>
    simp [legalPhase, phaseAfter, configure, drawTiming_eq, drawFinders_eq, drawAlignments_eq, drawFormat_eq, *]

/-- A command that the table makes illegal raises SequenceError (R33, R312). -/
theorem exec_of_not_legal {i : Instr} {s : State} (h : legalPhase i s = false) : exec i s = raise .sequenceError s := by
  cases i with
  | gfMul | rsDivisor | config | getModule => cases h
  | rsRemainder => exact if_pos (by simpa [legalPhase] using h)
  | penalty => exact if_pos (by simpa [legalPhase] using h)
  | eccInterleave | drawCodewords | finalize => exact if_neg (by simpa [legalPhase] using h)
  | drawTiming | drawFinders | drawAlignment | drawFormat | drawVersion | drawFunctionPatterns | applyMask
  | encodeSymbol => exact if_neg (Bool.not_eq_true _ ▸ h)

/-- In PHASE 5 only the trial mask on the matrix can be undone (R252). -/
theorem exec_applyMask_of_other_trial {m : Int} {s : State} (phase : s.phase = .trial)
    (other : (maskCode s.trial : Int) ≠ m) (lo : 0 ≤ m) (hi : m ≤ 7) :
    exec (.applyMask m) s = raise .sequenceError s := by
  obtain ⟨k, rfl⟩ : ∃ k : Fin 8, m = (k.val : Int) := ⟨⟨m.toNat, by omega⟩, by simp [lo]⟩
  have hne : s.trial ≠ some k := fun ht => other (by rw [ht]; rfl)
  simp [exec, execApplyMask, State.maskLegal, phase, hne]

/-- Settles O15: the table holds of every completed command, and of the errors of R312's checks 2 and 4. -/
theorem phaseTableHolds : Obligations.PhaseTableHolds := by
  unfold Obligations.PhaseTableHolds
  refine ⟨fun i s t h hok => ?_, fun i s => exec_of_not_legal, fun m s _ _ hp ht lo hi =>
    exec_applyMask_of_other_trial hp ht lo hi, rfl, fun p => by cases p <;> decide⟩
  obtain ⟨e, he, -, rfl⟩ | ⟨u, hc, rfl⟩ := exec_next h
  · exact absurd hok he
  · exact (phase_of_completes hc :)

end Sys2Proof.Machine
end

section
/-! PROOF. The representation of the arrays, and what the host sees of the registers. -/
namespace Sys2Proof.Machine

/-! ### Canonical arrays are their contents (log 6) -/

/-- An offset below every listed one reads as unlisted. -/
theorem Memory.read_below {m : Memory} {a : Nat} (h : ∀ c ∈ m, a < c.1) : m.read a = unlisted a :=
  read_of_forall_ne fun c hc => (h c hc).ne'

/-- A canonical array that lists some offset does not read there as one that lists only higher offsets. -/
theorem Memory.read_head_ne_unlisted {c : Host.Cell} {m : Memory} (h : wf (c :: m) = true) :
    read (c :: m) c.1 ≠ unlisted c.1 := by
  rw [read_cons, if_pos rfl]
  exact ((wf_cons c m).1 h).1.2.symm

theorem Memory.head_le_of_read_eq {c c' : Host.Cell} {m m' : Memory} (h : wf (c :: m) = true)
    (h' : wf (c' :: m') = true) (hr : ∀ off, read (c :: m) off = read (c' :: m') off) : c'.1 ≤ c.1 := by
  obtain ⟨-, hlt', -⟩ := (wf_cons c' m').1 h'
  by_contra hlt
  refine read_head_ne_unlisted h ((hr c.1).trans (read_below fun d hd => ?_))
  rcases List.mem_cons.1 hd with rfl | hd
  · omega
  · have := hlt' d hd
    omega

/-- Canonical arrays with the same contents are equal. -/
theorem Memory.ext_read {m m' : Memory} (h : wf m = true) (h' : wf m' = true) (hr : ∀ off, read m off = read m' off) :
    m = m' := by
  induction m generalizing m' with
  | nil =>
    cases m' with
    | nil => rfl
    | cons c' m' => exact absurd (hr c'.1).symm (read_head_ne_unlisted h')
  | cons c m ih =>
    cases m' with
    | nil => exact absurd (hr c.1) (read_head_ne_unlisted h)
    | cons c' m' =>
      obtain ⟨-, hlt, hwf⟩ := (wf_cons c m).1 h
      obtain ⟨-, hlt', hwf'⟩ := (wf_cons c' m').1 h'
      have hoff : c.1 = c'.1 :=
        Nat.le_antisymm (head_le_of_read_eq h' h fun off => (hr off).symm) (head_le_of_read_eq h h' hr)
      have hbyte : c.2 = c'.2 := by simpa [read_cons, hoff] using hr c.1
      have htail : m = m' := ih hwf hwf' fun off => by
        by_cases ho : c.1 = off
        · subst ho
          rw [read_below hlt, read_below (hoff ▸ hlt')]
        · simpa [read_cons, ho, ← hoff] using hr off
      rw [htail, Prod.ext hoff hbyte]

/-- Settles O60, by induction on the two lists: their first cells agree, and so do the rests. -/
theorem canonicalArraysAreDeterminedByReads : Obligations.CanonicalArraysAreDeterminedByReads := by
  unfold Obligations.CanonicalArraysAreDeterminedByReads
  exact fun _ _ => Memory.ext_read

/-! ### STATUS (R34) -/

/-- STATUS put together from its fields. -/
def statusOfFields (busy : Bool) (err : BitVec 4) (phase : BitVec 3) (done : BitVec 5) (trial : BitVec 4) : Word :=
  (BitVec.ofBool busy).setWidth 32 ||| (err.setWidth 32 <<< 4) ||| (phase.setWidth 32 <<< 8) |||
    (done.setWidth 32 <<< 11) ||| (trial.setWidth 32 <<< 16)

/-- Each field reads back from its own bits, and no other bit is set. -/
theorem fields_statusOfFields (b : Bool) (e : BitVec 4) (p : BitVec 3) (f : BitVec 5) (m : BitVec 4) :
    (statusOfFields b e p f m).getLsbD 0 = b ∧ (statusOfFields b e p f m).extractLsb' 1 3 = 0 ∧
      (statusOfFields b e p f m).extractLsb' 4 4 = e ∧ (statusOfFields b e p f m).extractLsb' 8 3 = p ∧
      (statusOfFields b e p f m).extractLsb' 11 5 = f ∧ (statusOfFields b e p f m).extractLsb' 16 4 = m ∧
      (statusOfFields b e p f m).extractLsb' 20 12 = 0 := by
  refine ⟨by simp [statusOfFields], ?_, ?_, ?_, ?_, ?_, ?_⟩
  all_goals
    ext i hi
    interval_cases i <;> simp [statusOfFields]

theorem ErrCode.code_lt (e : ErrCode) : e.code < 2 ^ 4 := by cases e <;> decide

theorem Phase.code_lt (p : Phase) : p.code < 2 ^ 3 := by cases p <;> decide

theorem maskCode_lt (m : Option (Fin 8)) : maskCode m < 2 ^ 4 := by
  cases m with
  | none => decide
  | some k => exact k.isLt.trans (by decide)

/-- A number that fits a narrow field is the same word by way of the field. -/
theorem ofNat_eq_setWidth {w n : Nat} (h : n < 2 ^ w) : BitVec.ofNat 32 n = (BitVec.ofNat w n).setWidth 32 := by
  apply BitVec.eq_of_toNat_eq
  simp [Nat.mod_eq_of_lt h]

theorem statusWord_eq (s : State) :
    statusWord s = statusOfFields s.busy (BitVec.ofNat 4 s.err.code) (BitVec.ofNat 3 s.phase.code) s.funcDone
      (BitVec.ofNat 4 (maskCode s.trial)) := by
  have hb : BitVec.ofNat 32 s.busy.toNat = (BitVec.ofBool s.busy).setWidth 32 := by cases s.busy <;> rfl
  rw [statusWord, hb, ofNat_eq_setWidth s.err.code_lt, ofNat_eq_setWidth s.phase.code_lt,
    ofNat_eq_setWidth (maskCode_lt s.trial), statusOfFields]

/-- Settles O46: STATUS is its fields put together, and each code fits its field. -/
theorem statusFieldsAreInPlace : Obligations.StatusFieldsAreInPlace := by
  unfold Obligations.StatusFieldsAreInPlace
  intro s
  obtain ⟨hbusy, hlow, herr, hphase, hdone, htrial, hhigh⟩ := fields_statusOfFields s.busy (BitVec.ofNat 4 s.err.code)
    (BitVec.ofNat 3 s.phase.code) s.funcDone (BitVec.ofNat 4 (maskCode s.trial))
  have toNat : ∀ {w n : Nat}, n < 2 ^ w → (BitVec.ofNat w n).toNat = n := fun h =>
    (BitVec.toNat_ofNat _ _).trans (Nat.mod_eq_of_lt h)
  rw [statusWord_eq, herr, hphase, htrial]
  exact ⟨hbusy, hlow, toNat s.err.code_lt, toNat s.phase.code_lt, hdone, toNat (maskCode_lt s.trial), hhigh⟩

/-! ### Reads (R32, R81, R86, R90) -/

/-- A register reads as the map says while no command is pending. -/
theorem hostRead_register {off : Nat} {s : State} (idle : s.busy = false) (h : isRegister off = true) :
    hostRead off 4 s = .ok (registerValue s off) := by
  have ha : accessError off 4 = false := by
    have h4 : off % 4 = 0 := (of_decide_eq_true h).2
    simp [accessError, h, h4]
  simp [hostRead, ha, idle, h]

/-- The arrays begin with DIV (R32). -/
theorem base_le_of_inArray {off : Nat} (h : inArray off = true) : 0x100 ≤ off := by
  obtain ⟨hdiv, hrem, hdata, hcw⟩ := bases_eq
  simp only [inArray, Bool.or_eq_true] at h
  rcases h with ((h | h) | h) | h <;> have := (of_decide_eq_true h).1 <;> omega

theorem not_isRegister_of_inArray {off : Nat} (h : inArray off = true) : isRegister off = false :=
  have := base_le_of_inArray h
  decide_eq_false (by omega)

/-- The bytes of the arrays read as they stand while no command is pending. -/
theorem hostRead_array {off n : Nat} {s : State} {bs : List Byte} (idle : s.busy = false) (h : inArray off = true)
    (width : n = 1 ∨ n = 4 ∧ off % 4 = 0) (hb : s.mem.readBytes off n = some bs) :
    hostRead off n s = .ok (wordOfBytes bs) := by
  have ha : accessError off n = false := by rcases width with rfl | ⟨rfl, h4⟩ <;> simp [accessError, *]
  simp [hostRead, ha, idle, not_isRegister_of_inArray h, hb]

/-- DIV, REM and CW hold a value at every offset (R340). -/
theorem Memory.read_eq_some_of_valued (m : Memory) {off : Nat}
    (h : inDiv off = true ∨ inRem off = true ∨ inCw off = true) :
    ∃ b, m.read off = some b := by
  induction m with
  | nil => exact ⟨0, if_pos (by simpa only [Bool.or_eq_true, or_assoc] using h)⟩
  | cons c m ih =>
    rw [read_cons]
    split
    · exact ⟨c.2, rfl⟩
    · exact ih

/-- The bits of a word of bytes: the first byte, then the rest 8 bits up (R81). -/
theorem getLsbD_wordOfBytes_cons (b : Byte) (bs : List Byte) {i : Nat} (hi : i < 32) :
    (wordOfBytes (b :: bs)).getLsbD i = if i < 8 then b.getLsbD i else (wordOfBytes bs).getLsbD (i - 8) := by
  by_cases h : i < 8
  · simp [wordOfBytes, h, hi]
  · simp [wordOfBytes, h, hi, BitVec.getLsbD_of_ge b i (Nat.not_lt.1 h)]
    exact (BitVec.getLsbD_eq_getElem (by omega)).symm

/-- Four bytes as a word, the first in bits [7:0] (R81). -/
theorem wordOfBytes_four (b0 b1 b2 b3 : Byte) : wordOfBytes [b0, b1, b2, b3] = b3 ++ b2 ++ b1 ++ b0 := by
  have bits : ∀ i, (b3 ++ b2 ++ b1 ++ b0).getLsbD i = if i < 8 then b0.getLsbD i
      else if i - 8 < 8 then b1.getLsbD (i - 8)
      else if i - 8 - 8 < 8 then b2.getLsbD (i - 8 - 8) else b3.getLsbD (i - 8 - 8 - 8) := fun i => by
    simp only [BitVec.getLsbD_append]
  refine BitVec.eq_of_getLsbD_eq fun i hi => Eq.trans ?_ (bits i).symm
  have h1 : i - 8 < 32 := by omega
  have h2 : i - 8 - 8 < 32 := by omega
  have h3 : i - 8 - 8 - 8 < 32 := by omega
  simp only [getLsbD_wordOfBytes_cons, hi, h1, h2, h3]
  have h4 : i - 8 - 8 - 8 < 8 := by omega
  rw [if_pos h4]

/-- From 0x40 up the registers are PSCORE (R50). -/
theorem registerValue_of_ge {off : Nat} (s : State) (h : 0x40 ≤ off) :
    registerValue s off = s.pscore.toList.getD ((off - 0x40) / 4) 0 := by
  unfold registerValue
  split
  case h_16 => exact if_pos h
  all_goals omega

theorem registerValue_pscore (s : State) (i : Fin 8) : registerValue s (0x40 + 4 * i.val) = s.pscore[i] := by
  have hi : (0x40 + 4 * i.val - 0x40) / 4 = i.val := by omega
  rw [registerValue_of_ge s (by omega), hi]
  simp
/-- Settles O47: registers by the map of R32, arrays by the bytes they hold. -/
theorem registersReadAsMapped : Obligations.RegistersReadAsMapped := by
  unfold Obligations.RegistersReadAsMapped
  intro s hp
  have idle : s.busy = false := by simp [State.busy, hp]
  have reg : ∀ off, isRegister off = true → hostRead off 4 s = .ok (registerValue s off) := fun _ =>
    hostRead_register idle
  refine ⟨⟨reg 0x00 rfl, reg 0x04 rfl, reg 0x08 rfl, reg 0x0C rfl, reg 0x10 rfl, reg 0x14 rfl, reg 0x18 rfl,
    reg 0x1C rfl, reg 0x20 rfl, reg 0x24 rfl, reg 0x28 rfl, reg 0x2C rfl, reg 0x30 rfl, reg 0x34 rfl, reg 0x38 rfl,
    reg 0x3C rfl, fun i => ?_⟩, fun off => s.mem.read_eq_some_of_valued, fun off b ha hb => ?_,
    fun off b0 b1 b2 b3 ha h4 h0 h1 h2 h3 => ?_⟩
  · rw [reg _ (decide_eq_true (by omega)), registerValue_pscore]
  · have hread : s.mem.readBytes off 1 = some [b] := by simp [Memory.readBytes, hb]
    rw [hostRead_array idle ha (.inl rfl) hread]
    simp [wordOfBytes]
  · have hread : s.mem.readBytes off 4 = some [b0, b1, b2, b3] := by simp [Memory.readBytes, h0, h1, h2, h3]
    rw [hostRead_array idle ha (.inr ⟨rfl, h4⟩) hread, wordOfBytes_four]

/-! ### CMD (R35) -/

/-- Settles O50: the access checks of a CMD write, and its effect. -/
theorem cmdWriteStartsCommand : Obligations.CmdWriteStartsCommand := by
  unfold Obligations.CmdWriteStartsCommand
  intro s w
  have cmd : accessError 0x00 4 = false := rfl
  refine ⟨fun idle => ⟨?_, hostRead_register idle rfl⟩, rfl, fun busy => ?_, fun n hn => ?_⟩
  · simp [hostWrite, cmd, idle]
  · simp [hostWrite, cmd, busy]
  · have none : inArray 0x00 = false := rfl
    have width : accessError 0x00 n = true := by simp [accessError, hn, none]
    simp [hostWrite, width]

end Sys2Proof.Machine
end

section
/-! PROOF. The host's accesses (R80 to R97): which are errors, and what reads and writes do. -/
namespace Sys2Proof.Machine

/-! ### Access errors (R82 to R84) -/

theorem isRegister_iff {off : Nat} : isRegister off = true ↔ off < 0x60 ∧ off % 4 = 0 := decide_eq_true_iff

/-- The bytes of the arrays (R32), as ranges. -/
theorem inArray_iff {off : Nat} :
    inArray off = true ↔ (0x100 ≤ off ∧ off < 0x300) ∨ (0x1000 ≤ off ∧ off < 0x1B8C) ∨ (0x2000 ≤ off ∧ off < 0x2E7C) := by
  obtain ⟨hdiv, hrem, -, hcw⟩ := bases_eq
  simp only [inArray, Bool.or_eq_true, inData_iff, inDiv, inRem, inCw, decide_eq_true_eq, hdiv, hrem, hcw,
    Config.rsArrayBytes, Config.cwArrayBytes]
  omega

theorem inArray_of_inData {off : Nat} (h : inData off = true) : inArray off = true := by
  simp [inArray, h]

/-- The accesses that are no access error: aligned words of registers and arrays, and bytes of arrays. -/
theorem accessError_eq_false_iff {off n : Nat} :
    accessError off n = false ↔
      (n = 4 ∧ off % 4 = 0 ∧ (isRegister off = true ∨ inArray off = true)) ∨ (n = 1 ∧ inArray off = true) := by
  simp only [accessError, Bool.not_eq_false', Bool.or_eq_true, Bool.and_eq_true, beq_iff_eq, and_assoc]

/-- Settles O53: the mapped ranges are the registers and the arrays, and an access error comes before every other check. -/
theorem accessErrorsAreExact : Obligations.AccessErrorsAreExact := by
  unfold Obligations.AccessErrorsAreExact
  intro off n v s
  constructor
  · rw [accessError_eq_false_iff, isRegister_iff, inArray_iff]
    omega
  · intro ha
    simp [hostRead, hostWrite, ha]

/-- No command pending is BUSY = 0 (R57). -/
theorem busy_of_pend_eq_none {s : State} (hp : s.pend = none) : s.busy = false := by simp [State.busy, hp]

/-! ### Reads (R86, R89) -/

/-- Settles O48: `hostRead` does not look at the log of reads, which is all that a read changes. -/
theorem readsHaveNoSideEffect : Obligations.ReadsHaveNoSideEffect := by
  unfold Obligations.ReadsHaveNoSideEffect
  intro s t off n h
  have log : ∀ v, hostRead off n (s.logRead v) = hostRead off n s := fun _ => rfl
  cases hr : hostRead off n s with
  | error f => simp [takeInput, hr] at h
  | ok v =>
    obtain rfl : s.logRead v = t := by simpa [takeInput, hr] using h
    exact ⟨v, rfl, (log v).trans hr, rfl⟩

/-- Settles O52: of the answers a read can give, the checks before the arrays leave the two on the bytes read. -/
theorem unwrittenDataReadFaults : Obligations.UnwrittenDataReadFaults := by
  unfold Obligations.UnwrittenDataReadFaults
  intro s off n hp ha hd
  have idle : s.busy = false := busy_of_pend_eq_none hp
  have hreg : isRegister off = false := not_isRegister_of_inArray (inArray_of_inData hd)
  rw [← Memory.readBytes_eq_none]
  obtain ⟨herr, -⟩ | ⟨-, busy, -⟩ | ⟨-, -, register, -⟩ | ⟨-, -, -, hb, hr⟩ | ⟨bs, -, -, -, hb, hr⟩ := hostRead_cases off n s
  · simp [ha] at herr
  · simp [idle] at busy
  · simp [hreg] at register
  · exact ⟨by simp [hb, hr], fun written => absurd (Memory.readBytes_eq_none.1 hb) (by simpa using written)⟩
  · exact ⟨by simp [hb, hr], fun _ => ⟨wordOfBytes bs, hr⟩⟩

/-! ### Writes (R81, R85, R90) -/

/-- Settles O49: what is neither CMD, DATA_LEN nor DATA ignores writes, and DATA_LEN takes 12 bits. -/
theorem readOnlyWritesAreIgnored : Obligations.ReadOnlyWritesAreIgnored := by
  unfold Obligations.ReadOnlyWritesAreIgnored
  intro s v hp
  have idle : s.busy = false := busy_of_pend_eq_none hp
  refine ⟨fun off n ha hcmd hlen hd => ?_, ?_⟩
  · simp [hostWrite, ha, idle, hcmd, hlen, hd]
  · have ha : accessError 0x1C 4 = false := rfl
    simp [hostWrite, ha, idle, BitVec.setWidth_eq_extractLsb']

/-- A write to DATA stores the bytes of the value (R90). -/
theorem hostWrite_data {off n : Nat} {v : Word} {s : State} (idle : s.busy = false) (ha : accessError off n = false)
    (hd : inData off = true) : hostWrite off n v s = .ok { s with mem := s.mem.store off (bytesOfWord n v) } := by
  have hoff := inData_iff.1 hd
  have hcmd : off ≠ 0 := by omega
  have hlen : off ≠ 0x1C := by omega
  simp [hostWrite, ha, idle, hcmd, hlen, hd]

@[simp] theorem length_bytesOfWord (n : Nat) (v : Word) : (bytesOfWord n v).length = n := by simp [bytesOfWord]

/-- The bytes of a stored word, least significant first (R81). -/
theorem Memory.read_store_bytesOfWord {off n k : Nat} (hk : k < n) (ha : inArray (off + k) = true) (m : Memory) (v : Word) :
    (m.store off (bytesOfWord n v)).read (off + k) = some (v.extractLsb' (8 * k) 8) := by
  rw [read_store_in (by omega) (by simpa using hk) ha]
  simp [bytesOfWord, hk]

/-- A byte of a word, as a word. -/
theorem setWidth_extractLsb'_byte (v : Word) (k : Nat) : (v.extractLsb' k 8).setWidth 32 = (v >>> k) &&& 0xFF := by
  apply BitVec.eq_of_toNat_eq
  have mask : v.toNat >>> k &&& 255 = v.toNat >>> k % 256 := Nat.and_two_pow_sub_one_eq_mod _ 8
  have fits : v.toNat >>> k % 256 < 4294967296 := by omega
  simp [mask, Nat.mod_eq_of_lt fits]

/-- A word is its four bytes. -/
theorem append_bytes (v : Word) :
    v.extractLsb' 24 8 ++ v.extractLsb' 16 8 ++ v.extractLsb' 8 8 ++ v.extractLsb' 0 8 = v := by
  rw [BitVec.extractLsb'_append_extractLsb'_eq_extractLsb' (by rfl),
    BitVec.extractLsb'_append_extractLsb'_eq_extractLsb' (by rfl),
    BitVec.extractLsb'_append_extractLsb'_eq_extractLsb' (by rfl)]
  exact BitVec.extractLsb'_eq_self

/-- A stored byte of a word reads back by itself (R81). -/
theorem hostRead_store_byte {s : State} {off n k : Nat} (hp : s.pend = none) (hk : k < n)
    (ha : inArray (off + k) = true) (v : Word) :
    hostRead (off + k) 1 { s with mem := s.mem.store off (bytesOfWord n v) } = .ok ((v >>> (8 * k)) &&& 0xFF) := by
  obtain ⟨-, -, byteRead, -⟩ := registersReadAsMapped { s with mem := s.mem.store off (bytesOfWord n v) } hp
  rw [byteRead _ _ ha (Memory.read_store_bytesOfWord hk ha s.mem v), setWidth_extractLsb'_byte]

/-- A stored word reads back as a whole (R81). -/
theorem hostRead_store_word {s : State} {off : Nat} (hp : s.pend = none) (aligned : off % 4 = 0)
    (ha : ∀ k < 4, inArray (off + k) = true) (v : Word) :
    hostRead off 4 { s with mem := s.mem.store off (bytesOfWord 4 v) } = .ok v := by
  obtain ⟨-, -, -, wordRead⟩ := registersReadAsMapped { s with mem := s.mem.store off (bytesOfWord 4 v) } hp
  have stored : ∀ k < 4,
      (s.mem.store off (bytesOfWord 4 v)).read (off + k) = some (v.extractLsb' (8 * k) 8) := fun k hk =>
    Memory.read_store_bytesOfWord hk (ha k hk) s.mem v
  rw [wordRead off _ _ _ _ (ha 0 (by decide)) aligned (stored 0 (by decide)) (stored 1 (by decide)) (stored 2 (by decide))
    (stored 3 (by decide)), append_bytes]

/-- Settles O51: the bytes of the value are stored in order, and read back by the map of R32. -/
theorem dataWordsAreLittleEndian : Obligations.DataWordsAreLittleEndian := by
  unfold Obligations.DataWordsAreLittleEndian
  refine ⟨fun s off v hp aligned lo hi => ?_, fun s off v hp lo hi => ?_⟩
  · have idle : s.busy = false := busy_of_pend_eq_none hp
    have ha : ∀ k < 4, inArray (off + k) = true := fun k hk => inArray_of_inData (inData_iff.2 (by omega))
    have access : accessError off 4 = false := accessError_eq_false_iff.2 (.inl ⟨rfl, aligned, .inr (ha 0 (by decide))⟩)
    refine ⟨_, hostWrite_data idle access (inData_iff.2 (by omega)), hostRead_store_word hp aligned ha v,
      fun k hk => hostRead_store_byte hp hk (ha k hk) v, fun a out => ?_, rfl⟩
    exact Memory.read_store_out (by simpa using out) s.mem
  · have idle : s.busy = false := busy_of_pend_eq_none hp
    have hd : inData off = true := inData_iff.2 ⟨lo, hi⟩
    have ha : inArray off = true := inArray_of_inData hd
    refine ⟨_, hostWrite_data idle (accessError_eq_false_iff.2 (.inr ⟨rfl, ha⟩)) hd, ?_, ?_, fun a ne => ?_, rfl⟩
    · simpa [BitVec.setWidth_eq_extractLsb'] using Memory.read_store_bytesOfWord (k := 0) Nat.one_pos ha s.mem v
    · simpa using hostRead_store_byte (k := 0) hp Nat.one_pos ha v
    · have out : a < off ∨ off + 1 ≤ a := by omega
      exact Memory.read_store_out (by simpa using out) s.mem

/-! ### Launch (R97) -/

/-- Settles O55: two programs or more are more than one host. -/
theorem twoHostsAreRefused : Obligations.TwoHostsAreRefused := by
  unfold Obligations.TwoHostsAreRefused
  intro s p q rest
  have hosts : 1 < (launch (p :: q :: rest) s).hosts := by simp [launch]
  rw [step, stepMachine, if_pos hosts]

end Sys2Proof.Machine
end

section
/-! SUPPORT. Operands and the fields that carry them, and command words taken apart and put together (R110 to R113). -/
namespace Sys2Proof

/-! ### Operands in their fields (R112) -/

theorem isZero_iff {f : BitVec 12} : isZero f = true ↔ f = 0 := beq_iff_eq

theorem isZero_iff_toNat {f : BitVec 12} : isZero f = true ↔ f.toNat = 0 := by
  rw [isZero_iff, ← BitVec.toNat_inj]
  rfl

/-- The top `k` bits of a field are 0 exactly when its value fits the `n` bits below. -/
theorem extractLsb'_eq_zero_iff {f : BitVec 12} {n k : Nat} (h : n + k = 12) :
    f.extractLsb' n k = 0 ↔ f.toNat < 2 ^ n := by
  have fits : f.toNat / 2 ^ n < 2 ^ k :=
    Nat.div_lt_of_lt_mul (by rw [← Nat.pow_add, h]; exact f.isLt)
  rw [← BitVec.toNat_inj, BitVec.extractLsb'_toNat, Nat.shiftRight_eq_div_pow, Nat.mod_eq_of_lt fits]
  exact Nat.div_eq_zero_iff_lt (Nat.two_pow_pos n)

theorem isU8_iff {f : BitVec 12} : isU8 f = true ↔ f.toNat < 256 :=
  beq_iff_eq.trans (extractLsb'_eq_zero_iff rfl)

theorem isEcl_iff {f : BitVec 12} : isEcl f = true ↔ f.toNat < 4 :=
  beq_iff_eq.trans (extractLsb'_eq_zero_iff rfl)

theorem toNat_u8Of {f : BitVec 12} (h : isU8 f = true) : (u8Of f).toNat = f.toNat := by
  rw [u8Of, BitVec.extractLsb'_toNat]
  exact Nat.mod_eq_of_lt (isU8_iff.1 h)

theorem setWidth_u8Of {f : BitVec 12} (h : isU8 f = true) : (u8Of f).setWidth 12 = f := by
  apply BitVec.eq_of_toNat_eq
  have := isU8_iff.1 h
  rw [BitVec.toNat_setWidth, toNat_u8Of h]
  omega

theorem ordinal_eclOf {f : BitVec 12} (h : isEcl f = true) : (eclOf f).ordinal = f.toNat := by
  have := isEcl_iff.1 h
  have table : ∀ n < 4, (eclOf (BitVec.ofNat 12 n)).ordinal = n := by decide
  simpa using table _ this

@[simp] theorem eclOf_ordinal (e : Ecl) : eclOf (BitVec.ofNat 12 e.ordinal) = e := by cases e <;> rfl

@[simp] theorem isEcl_ordinal (e : Ecl) : isEcl (BitVec.ofNat 12 e.ordinal) = true := by cases e <;> rfl

theorem toNat_ofNat_of_fitsU12 {n : Nat} (h : fitsU12 n = true) : (BitVec.ofNat 12 n).toNat = n :=
  (BitVec.toNat_ofNat _ _).trans (Nat.mod_eq_of_lt (of_decide_eq_true h))

theorem isU8_ofNat_of_fitsU8 {n : Nat} (h : fitsU8 n = true) : isU8 (BitVec.ofNat 12 n) = true := by
  have := of_decide_eq_true h
  rw [isU8_iff, BitVec.toNat_ofNat]
  omega

theorem toNat_u8Of_ofNat {n : Nat} (h : fitsU8 n = true) : (u8Of (BitVec.ofNat 12 n)).toNat = n := by
  have := of_decide_eq_true h
  rw [toNat_u8Of (isU8_ofNat_of_fitsU8 h), BitVec.toNat_ofNat]
  omega

theorem toInt_ofInt_of_fitsS12 {m : Int} (h : fitsS12 m = true) : (BitVec.ofInt 12 m).toInt = m := by
  obtain ⟨lo, hi⟩ := of_decide_eq_true h
  exact BitVec.toInt_ofInt_eq_self (by decide) lo (Int.lt_of_le_of_lt hi (by decide))

/-! ### Decoding an encoded command, and back (R118) -/

theorem guardReserved_eq_ok {ok : Bool} {w : Word} {i j : Instr} :
    guardReserved ok w i = .ok j ↔ ok = true ∧ i = j := by
  cases ok <;> simp [guardReserved]

theorem decode_encode {i : Instr} (h : i.wellFormed = true) : decode (encode i) = .ok i := by
  obtain ⟨hop, ha, hb⟩ := fields_encode i
  unfold decode
  rw [hop, ha, hb]
  cases i with
  | gfMul x y => simp [opcodeOf, aOperand, bOperand, guardReserved]
  | rsDivisor degree =>
    simp [opcodeOf, aOperand, bOperand, guardReserved, isZero_iff, isU8_ofNat_of_fitsU8 h, toNat_u8Of_ofNat h]
  | config v e =>
    simp [opcodeOf, aOperand, bOperand, guardReserved, toNat_ofNat_of_fitsU12 h]
  | rsRemainder off len =>
    obtain ⟨hoff, hlen⟩ := Bool.and_eq_true_iff.1 h
    simp [opcodeOf, aOperand, bOperand, toNat_ofNat_of_fitsU12 hoff, toNat_ofNat_of_fitsU12 hlen]
  | getModule x y =>
    obtain ⟨hx, hy⟩ := Bool.and_eq_true_iff.1 h
    simp [opcodeOf, aOperand, bOperand, toInt_ofInt_of_fitsS12 hx, toInt_ofInt_of_fitsS12 hy]
  | drawFormat m | applyMask m | finalize m | encodeSymbol m =>
    simp [opcodeOf, aOperand, bOperand, guardReserved, isZero_iff, toInt_ofInt_of_fitsS12 h]
  | _ => rfl

/-! ### Words by their fields (R110) -/

/-- Every word is its three fields. -/
theorem packWord_fields (w : Word) : packWord (opField w) (aField w) (bField w) = w := by
  apply BitVec.eq_of_getLsbD_eq
  intro i hi
  interval_cases i <;> simp [packWord, opField, aField, bField]

/-- Two words are equal when their fields are. -/
theorem word_eq_iff {v w : Word} : v = w ↔ opField v = opField w ∧ aField v = aField w ∧ bField v = bField w := by
  refine ⟨fun h => h ▸ ⟨rfl, rfl, rfl⟩, fun ⟨hop, ha, hb⟩ => ?_⟩
  rw [← packWord_fields v, hop, ha, hb, packWord_fields]

/-- The bits of a field from `n` up are 0 exactly when its value fits `n` bits. -/
theorem and_allOnes_shiftLeft_eq_zero_iff {f : BitVec 12} {n : Nat} :
    f &&& (BitVec.allOnes 12 <<< n) = 0 ↔ f.toNat < 2 ^ n := by
  constructor
  · intro h
    refine Nat.lt_pow_two_of_testBit _ fun i hi => ?_
    by_cases hlt : i < 12
    · have reserved : (BitVec.allOnes 12 <<< n).getLsbD i = true := by
        rw [BitVec.getLsbD_shiftLeft, BitVec.getLsbD_allOnes]
        simp
        omega
      have hbit : (f &&& (BitVec.allOnes 12 <<< n)).getLsbD i = false := by
        rw [h, BitVec.ofNat_eq_ofNat, BitVec.getLsbD_zero]
      rwa [BitVec.getLsbD_and, reserved, Bool.and_true] at hbit
    · exact BitVec.getLsbD_of_ge f i (Nat.not_lt.1 hlt)
  · intro h
    apply BitVec.eq_of_getLsbD_eq
    intro i hi
    by_cases hn : i < n
    · simp [hn]
    · have hbit : f.getLsbD i = false :=
        Nat.testBit_lt_two_pow (h.trans_le (Nat.pow_le_pow_right (by decide) (Nat.not_lt.1 hn)))
      simp [hbit]

/-! ### The rows of the opcode table (R111 to R113) -/

/-- How many low bits of the A field carry the operand of a command (R112); the bits above are reserved. -/
def aWidth : Instr → Nat
  | .gfMul _ _ | .rsDivisor _ => 8
  | .rsRemainder _ _ | .config _ _ | .drawFormat _ | .applyMask _ | .finalize _ | .encodeSymbol _ | .getModule _ _ => 12
  | _ => 0

/-- How many low bits of the B field carry the operand of a command (R112); the bits above are reserved. -/
def bWidth : Instr → Nat
  | .gfMul _ _ => 8
  | .rsRemainder _ _ | .getModule _ _ => 12
  | .config _ _ => 2
  | _ => 0

/-- The bits that the command `i` reserves are 0 in `w`. -/
def ReservedClear (w : Word) (i : Instr) : Prop := (aField w).toNat < 2 ^ aWidth i ∧ (bField w).toNat < 2 ^ bWidth i

/-- The row of each command: its opcode, and masks of the reserved bits. -/
theorem exists_row (i : Instr) : ∃ r ∈ opcodeTable, opField r.pattern = opcodeOf i ∧
    aField r.mask = BitVec.allOnes 12 <<< aWidth i ∧ bField r.mask = BitVec.allOnes 12 <<< bWidth i := by
  cases i <;> simp only [opcodeOf, aWidth, bWidth] <;> decide

/-- No opcode stands in two rows. -/
theorem row_eq_of_opField_eq : ∀ r ∈ opcodeTable, ∀ r' ∈ opcodeTable,
    opField r.pattern = opField r'.pattern → r = r' := by
  decide

/-- A word selects a row when it has the row's opcode and none of the row's reserved bits. -/
theorem selects_iff {r : OpRow} (hr : r ∈ opcodeTable) (w : Word) :
    w &&& r.mask = r.pattern ↔
      opField w = opField r.pattern ∧ aField w &&& aField r.mask = 0 ∧ bField w &&& bField r.mask = 0 := by
  have shape : ∀ r ∈ opcodeTable,
      opField r.mask = BitVec.allOnes 8 ∧ aField r.pattern = 0 ∧ bField r.pattern = 0 := by decide
  obtain ⟨hop, ha, hb⟩ := shape r hr
  have opField_and : opField (w &&& r.mask) = opField w &&& opField r.mask := BitVec.extractLsb'_and
  have aField_and : aField (w &&& r.mask) = aField w &&& aField r.mask := BitVec.extractLsb'_and
  have bField_and : bField (w &&& r.mask) = bField w &&& bField r.mask := BitVec.extractLsb'_and
  rw [word_eq_iff, opField_and, aField_and, bField_and, hop, ha, hb, BitVec.and_allOnes]

/-- A word with the opcode of `i` selects a row exactly when the bits that `i` reserves are 0. -/
theorem exists_selected_iff {w : Word} {i : Instr} (hop : opcodeOf i = opField w) :
    (∃ r ∈ opcodeTable, w &&& r.mask = r.pattern) ↔ ReservedClear w i := by
  obtain ⟨row, hrow, hpat, ha, hb⟩ := exists_row i
  have key : w &&& row.mask = row.pattern ↔ ReservedClear w i := by
    rw [selects_iff hrow, ha, hb, and_allOnes_shiftLeft_eq_zero_iff, and_allOnes_shiftLeft_eq_zero_iff, hpat, hop]
    exact and_iff_right rfl
  refine ⟨fun ⟨r, hr, hsel⟩ => key.1 ?_, fun h => ⟨row, hrow, key.2 h⟩⟩
  obtain ⟨hr_op, -⟩ := (selects_iff hr w).1 hsel
  rwa [row_eq_of_opField_eq row hrow r hr (by rw [hpat, hop, hr_op])]

/-! ### What the decoder answers (R115) -/

/-- The opcodes of the table are those the decoder matches. -/
theorem opField_mem {r : OpRow} (hr : r ∈ opcodeTable) : (opField r.pattern).toNat ∈
    [0x01, 0x02, 0x03, 0x10, 0x11, 0x20, 0x21, 0x22, 0x23, 0x24, 0x2F, 0x30, 0x40, 0x41, 0x42, 0x50, 0x60] := by
  revert r
  decide

/-- Everything the decoder can answer: a command of the word's opcode when the bits it reserves are 0, its operands being the
fields of the word, a rejection when they are not; or a rejection because no row has the opcode. -/
theorem decode_cases (w : Word) :
    (∃ ok i, opcodeOf i = opField w ∧ decode w = guardReserved ok w i ∧ (ok = true ↔ ReservedClear w i) ∧
      (ok = true → aOperand i = aField w ∧ bOperand i = bField w)) ∨
    ((∀ r ∈ opcodeTable, opField r.pattern ≠ opField w) ∧ decode w = .error (.unassignedOpcode (opField w))) := by
  have fits : ∀ f : BitVec 12, f.toNat < 4096 := BitVec.isLt
  unfold decode
  split
  case h_18 =>
    refine .inr ⟨fun r hr hop => ?_, rfl⟩
    have := opField_mem hr
    rw [hop] at this
    simp only [List.mem_cons, List.not_mem_nil, or_false] at this
    tauto
  case h_3 heq | h_17 heq =>
    refine .inl ⟨true, _, ?_, rfl, ?_, ?_⟩
    · exact BitVec.eq_of_toNat_eq heq.symm
    · simp [ReservedClear, aWidth, bWidth, fits]
    · simp [aOperand, bOperand]
  all_goals
    rename_i heq
    refine .inl ⟨_, _, ?_, rfl, ?_, ?_⟩
    · exact BitVec.eq_of_toNat_eq heq.symm
    · simp [ReservedClear, aWidth, bWidth, isU8_iff, isEcl_iff, isZero_iff_toNat, fits]
    · simp +contextual [aOperand, bOperand, setWidth_u8Of, ordinal_eclOf, isZero_iff]

end Sys2Proof
end

section
/-! PROOF. The obligations on the command word (R112 to R118). -/
namespace Sys2Proof.Machine

/-- Settles O1: the fields of the word are those of the command, and each operand reads back from its field. -/
theorem decodeOfEncode : Obligations.DecodeOfEncode := by
  unfold Obligations.DecodeOfEncode
  exact fun i => decode_encode

/-- Settles O2: the fields of the decoded command are those of the word, which is its fields put together. -/
theorem encodeOfDecode : Obligations.EncodeOfDecode := by
  unfold Obligations.EncodeOfDecode
  intro w i h
  refine ⟨wellFormed_of_decode h, ?_⟩
  obtain ⟨ok, j, hop, hd, -, operands⟩ | ⟨-, hd⟩ := decode_cases w
  · obtain ⟨hok, rfl⟩ := guardReserved_eq_ok.1 (hd ▸ h)
    obtain ⟨ha, hb⟩ := operands hok
    rw [encode, hop, ha, hb, packWord_fields]
  · cases hd ▸ h

/-- R113: the legal words are those that select a row. -/
theorem exists_decode_eq_ok_iff (w : Word) :
    (∃ i, decode w = .ok i) ↔ ∃ r ∈ opcodeTable, w &&& r.mask = r.pattern := by
  obtain ⟨ok, i, hop, hd, reserved, -⟩ | ⟨unassigned, hd⟩ := decode_cases w
  · rw [exists_selected_iff hop, ← reserved, hd]
    simp [guardReserved_eq_ok]
  · constructor
    · rintro ⟨i, hi⟩
      cases hd ▸ hi
    · rintro ⟨r, hr, hsel⟩
      obtain ⟨hop, -⟩ := (selects_iff hr w).1 hsel
      exact absurd hop.symm (unassigned r hr)

/-- Settles O3: a selected row has the word's opcode, and no opcode stands in two rows. -/
theorem legalWordsSelectOneRow : Obligations.LegalWordsSelectOneRow := by
  unfold Obligations.LegalWordsSelectOneRow
  refine ⟨exists_decode_eq_ok_iff, fun w r hr r' hr' hsel hsel' => ?_⟩
  obtain ⟨hop, -⟩ := (selects_iff hr w).1 hsel
  obtain ⟨hop', -⟩ := (selects_iff hr' w).1 hsel'
  exact row_eq_of_opField_eq r hr r' hr' (hop.symm.trans hop')

/-- Settles O4: in either case the word selects no row, so it is not legal. -/
theorem illegalWordsRaise : Obligations.IllegalWordsRaise := by
  unfold Obligations.IllegalWordsRaise
  intro w s h
  have opField_pattern : ∀ r : OpRow, r.pattern.setWidth 8 = opField r.pattern := fun r =>
    BitVec.setWidth_eq_extractLsb' (by decide)
  have unselected : ¬∃ r ∈ opcodeTable, w &&& r.mask = r.pattern := by
    rintro ⟨r, hr, hsel⟩
    obtain ⟨hop, -⟩ := (selects_iff hr w).1 hsel
    obtain unassigned | ⟨r', hr', hop', reserved⟩ := h
    · exact unassigned r hr ((opField_pattern r).trans hop.symm)
    · rw [opField_pattern, hop] at hop'
      exact reserved (row_eq_of_opField_eq r' hr' r hr hop' ▸ hsel)
  cases hd : decode w with
  | ok i => exact absurd ((exists_decode_eq_ok_iff w).1 ⟨i, hd⟩) unselected
  | error e => exact ⟨⟨e, rfl⟩, by simp [runWord, hd]⟩

/-- Settles O5: each word is decoded. -/
theorem writtenOutWordsDecode : Obligations.WrittenOutWordsDecode := by
  unfold Obligations.WrittenOutWordsDecode
  decide

end Sys2Proof.Machine
end

section
/-! PROOF. ISSUE: a CMD write, the command and a read of STATUS (R119). -/
namespace Sys2Proof.Machine

/-- With no command pending and the empty schedule a step takes the host's next event (log 1, log 2). -/
theorem step_of_idle {s : State} {inp : Input} {rest : List Input} (hosts : s.hosts ≤ 1) (idle : s.pend = none)
    (sched : s.sched = []) (inputs : s.inputs = inp :: rest) : step s = takeInput inp { s with inputs := rest } := by
  have turn : takeTurn s = (.host, s.sched) := by simp [takeTurn, sched, State.busy, idle]
  rw [step, stepMachine, if_neg (Nat.not_lt.2 hosts), turn]
  simp [moveOf, hostStep, inputs]

/-- With a command pending the engine runs it when the schedule lets it (R318). -/
theorem step_of_pending {s : State} {w : Word} (hosts : s.hosts ≤ 1) (pending : s.pend = some w)
    (sched : s.sched = [] ∨ ∃ rest, s.sched = .engine :: rest) :
    step s = runWord w { s with sched := s.sched.tail } := by
  have turn := takeTurn_engine (s := s) (by simp [State.busy, pending]) sched
  rw [step, stepMachine, if_neg (Nat.not_lt.2 hosts), turn]
  simp [moveOf, engineStep, pending]

/-- With a command's word pending and the empty schedule a step runs the command. -/
theorem step_of_encoded {s : State} {i : Instr} (hosts : s.hosts ≤ 1) (pending : s.pend = some (encode i))
    (sched : s.sched = []) (hi : i.wellFormed = true) : step s = exec i s := by
  have same : { s with sched := s.sched.tail } = s := by rw [sched, List.tail_nil, ← sched]
  rw [step_of_pending hosts pending (.inl sched), same, runWord, decode_encode hi]

/-- A CMD write while no command is pending puts the word into PEND (R35). -/
theorem takeInput_cmd {s : State} (idle : s.pend = none) (w : Word) :
    takeInput (.write 0x0000 4 w) s = .next { s with pend := some w } := by
  have access : accessError 0x0000 4 = false := rfl
  simp [takeInput, hostWrite, access, busy_of_pend_eq_none idle]

/-- POLL while no command is pending reads STATUS once (R119). -/
theorem takeInput_poll_of_idle {s : State} (idle : s.pend = none) :
    takeInput .poll s = .next (s.logRead (statusWord s)) := by
  simp [takeInput, busy_of_pend_eq_none idle]

theorem pend_of_exec_next {i : Instr} {s t : State} (h : exec i s = .next t) : t.pend = none := by
  obtain ⟨e, -, -, rfl⟩ | ⟨u, -, rfl⟩ := exec_next h <;> rfl

/-- Settles O10: the host writes CMD, the engine runs the command, and the POLL then finds BUSY = 0. -/
theorem issueRunsCommand : Obligations.IssueRunsCommand := by
  unfold Obligations.IssueRunsCommand
  intro s t i rest hosts sched idle inputs hi h
  obtain ⟨-, -, -, hhosts, hinputs, hsched, hlog⟩ := commandsKeepHostData i _ t h
  have done : t.pend = none := pend_of_exec_next h
  have write : step s = .next { s with inputs := .poll :: rest, pend := some (encode i) } := by
    rw [step_of_idle hosts idle sched inputs]
    exact takeInput_cmd (s := { s with inputs := .poll :: rest }) idle (encode i)
  have run : step { s with inputs := .poll :: rest, pend := some (encode i) } = .next t := by
    refine Eq.trans (step_of_encoded ?_ ?_ ?_ hi) h
    exacts [hosts, rfl, sched]
  have poll : step t = .next { t with inputs := rest, readLog := statusWord t :: s.readLog } := by
    rw [step_of_idle (hhosts ▸ hosts) done (hsched ▸ sched) hinputs]
    exact hlog ▸ takeInput_poll_of_idle (s := { t with inputs := rest }) done
  simp [Host.Core.run, core, write, run, poll]

end Sys2Proof.Machine
end

section
/-! SUPPORT. The range of the penalty score (R260). -/
namespace Sys2Proof.Machine

theorem flankCount_le (rule : FlankRule) (core : Bool) (n a b : Nat) : flankCount rule core n a b ≤ 2 := by
  cases rule <;> simp only [flankCount] <;> split_ifs <;> omega

theorem countPatterns_le (rule : FlankRule) (h : History) : countPatterns rule h ≤ 2 := flankCount_le _ _ _ _ _

theorem terminateAndCount_le (rule : FlankRule) (size : Nat) (color : Bool) (run : Nat) (h : History) :
    terminateAndCount rule size color run h ≤ 2 := by
  unfold terminateAndCount
  split <;> exact countPatterns_le _ _

/-- After `k` cells of a line the score is at most `points` for runs and 80 for each of the `ended` light runs that have
ended. A run of five or more has two cells without a point, and light runs end at every other cell at most. -/
structure ScanBound (k points ended : Nat) (st : LineScan) : Prop where
  score_le : st.score ≤ points + 80 * ended
  run_le : st.run ≤ k
  points_le : (points = 0 ∧ st.run < 5) ∨ points + 2 + (if st.run < 5 then st.run else 0) ≤ k
  ended_le : 2 * ended ≤ k + st.color.toNat

/-- One more cell keeps the bound: it lengthens the run, or it ends the run and starts one of the other colour. -/
theorem ScanBound.step {k points ended : Nat} {st : LineScan} (h : ScanBound k points ended st) (rule : FlankRule)
    (size : Nat) (cell : Bool) : ∃ points' ended', ScanBound (k + 1) points' ended' (lineStep rule size st cell) := by
  obtain ⟨hscore, hrun, hpoints, hended⟩ := h
  unfold lineStep
  by_cases hc : cell = st.color
  · rw [if_pos hc]
    refine ⟨points + (if st.run + 1 = 5 then 3 else if 5 < st.run + 1 then 1 else 0), ended, ?_, ?_, ?_, ?_⟩ <;>
      simp only
    · omega
    · omega
    · split_ifs at hpoints ⊢ <;> omega
    · omega
  · rw [if_neg hc]
    have hcount := countPatterns_le rule (st.history.add size st.run)
    have hcell : cell = !st.color := Bool.eq_not.2 hc
    refine ⟨points, ended + cell.toNat, ?_, ?_, ?_, ?_⟩ <;> simp only
    · cases hcol : st.color <;> simp [hcell, hcol] <;> omega
    · omega
    · split_ifs at hpoints ⊢ <;> omega
    · cases hcol : st.color <;> simp [hcell, hcol] at hended ⊢ <;> omega

theorem scanBound_foldl (rule : FlankRule) (size : Nat) (line : List Bool) {k points ended : Nat} {st : LineScan}
    (h : ScanBound k points ended st) :
    ∃ points' ended', ScanBound (k + line.length) points' ended' (line.foldl (lineStep rule size) st) := by
  induction line generalizing k points ended st with
  | nil => exact ⟨points, ended, h⟩
  | cons cell line ih =>
    obtain ⟨points', ended', h'⟩ := h.step rule size cell
    rw [List.length_cons, Nat.add_comm line.length, ← Nat.add_assoc]
    exact ih h'

/-- The points of one line (R260): 175 for runs, and 80 for each of at most 89 light runs that end in the line and one that
ends with it. -/
theorem lineScore_le {line : List Bool} (h : line.length ≤ 177) (rule : FlankRule) (size : Nat) :
    lineScore rule size line ≤ 7375 := by
  have start : ScanBound 0 0 0 ⟨0, false, 0, History.empty⟩ :=
    ⟨Nat.le_refl _, Nat.le_refl _, .inl ⟨rfl, by decide⟩, Nat.le_refl _⟩
  obtain ⟨points, ended, hscore, -, hpoints, hended⟩ := scanBound_foldl rule size line start
  unfold lineScore
  generalize line.foldl (lineStep rule size) ⟨0, false, 0, History.empty⟩ = st at *
  have hlast := terminateAndCount_le rule size st.color st.run st.history
  have hcolor := Bool.toNat_le st.color
  simp only
  omega

theorem sum_map_range_le {n b : Nat} {f : Nat → Nat} (h : ∀ i < n, f i ≤ b) : ((List.range n).map f).sum ≤ n * b := by
  simpa using List.sum_le_card_nsmul ((List.range n).map f) b (by simpa using h)

theorem n2Score_le {size : Nat} (h : size ≤ 177) (m : Grid) : n2Score m size ≤ 92928 := by
  have windows : ∀ y < size - 1, 3 * (List.range (size - 1)).countP (fun x => uniformWindow m x y) ≤ 3 * 176 := fun y _ => by
    have := List.countP_le_length (p := fun x => uniformWindow m x y) (l := List.range (size - 1))
    rw [List.length_range] at this
    omega
  refine (sum_map_range_le windows).trans ?_
  omega

theorem darkCount_le (m : Grid) (size : Nat) : darkCount m size ≤ size * size :=
  sum_map_range_le fun y _ => by simpa using List.countP_le_length (p := id) (l := m.row size y)

theorem imbalance_le {dark total : Nat} (h : dark ≤ total) : imbalance dark total ≤ 10 * total := by
  unfold imbalance
  omega

theorem imbalanceSteps_le {a total : Nat} (h : a ≤ 10 * total) (rule : ImbalanceRule) : imbalanceSteps rule a total ≤ 10 := by
  cases rule with
  | floor => exact Nat.div_le_of_le_mul (by omega)
  | ceilMinusOne =>
    have : (a + total - 1) / total ≤ 11 := Nat.div_le_of_le_mul (by omega)
    simp only [imbalanceSteps]
    omega

theorem n4Score_le (rule : ImbalanceRule) (m : Grid) (size : Nat) : n4Score rule m size ≤ 100 :=
  Nat.mul_le_mul_left 10 (imbalanceSteps_le (imbalance_le (darkCount_le m size)) rule)

/-- R260: "The sum is at most 2703778". -/
theorem penaltyScore_le {size : Nat} (h : size ≤ 177) (p : Params) (m : Grid) : penaltyScore p m size ≤ 2703778 := by
  have rows : ((List.range size).map fun y => lineScore p.flankRule size (m.row size y)).sum ≤ size * 7375 :=
    sum_map_range_le fun y _ => lineScore_le (by simpa using h) _ _
  have columns : ((List.range size).map fun x => lineScore p.flankRule size (m.column size x)).sum ≤ size * 7375 :=
    sum_map_range_le fun x _ => lineScore_le (by simpa using h) _ _
  have windows := n2Score_le h m
  have steps := n4Score_le p.imbalanceRule m size
  unfold penaltyScore
  omega

end Sys2Proof.Machine
end

section
/-! SUPPORT. What `drawFormat` and one trial of a mask leave in M and F (R209, R262). -/
namespace Sys2Proof.Machine

/-! ### The format cells (R209) -/

/-- The cell of a write. -/
def ModuleWrite.cell (w : ModuleWrite) : Nat × Nat := (w.x, w.y)

/-- Where no two writes share a cell, each cell holds what is written to it. -/
theorem get_drawAll_of_mem {size : Nat} {ws : List ModuleWrite} (inside : WritesInside size ws) (hs : size ≤ 177)
    (distinct : (ws.map ModuleWrite.cell).Nodup) {w : ModuleWrite} (hw : w ∈ ws) (c : Canvas) :
    (drawAll ws c).m.get w.x w.y = w.d := by
  obtain ⟨hx, hy⟩ := inside w hw
  refine drawAll_m_of_hit ⟨w, hw, decide_eq_true ⟨rfl, rfl, by omega, by omega⟩⟩ (fun v hv hit => ?_) c
  obtain ⟨hvx, hvy, -⟩ := of_decide_eq_true hit
  rw [List.inj_on_of_nodup_map distinct hv hw (Prod.ext hvx.symm hvy.symm)]

/-- The 31 format cells are distinct: the first copy is in the corner of columns and rows 0 to 8, the second copy and the
dark module are not (R209). -/
theorem nodup_formatCells {size : Nat} (hs : 21 ≤ size) :
    ((List.range 15).map formatCell ++ (List.range 15).map (formatCell2 size) ++ [(8, size - 8)]).Nodup := by
  have corner : ∀ i < 15, (formatCell i).1 ≤ 8 ∧ (formatCell i).2 ≤ 8 := by decide
  have second : ∀ i < 15, (i ≤ 7 ∧ formatCell2 size i = (size - 1 - i, 8)) ∨
      (8 ≤ i ∧ formatCell2 size i = (8, size - 15 + i)) := fun i _ => by
    unfold formatCell2
    split
    · exact .inl ⟨‹_›, rfl⟩
    · exact .inr ⟨by omega, rfl⟩
  have second_inj : ((List.range 15).map (formatCell2 size)).Nodup := by
    refine List.Nodup.map_on (fun i hi j hj h => ?_) List.nodup_range
    obtain ⟨_, ei⟩ | ⟨_, ei⟩ := second i (List.mem_range.1 hi) <;>
      obtain ⟨_, ej⟩ | ⟨_, ej⟩ := second j (List.mem_range.1 hj) <;>
      rw [ei, ej, Prod.mk.injEq] at h <;> omega
  simp only [List.nodup_append, List.mem_append, List.mem_map, List.mem_range, List.mem_singleton]
  refine ⟨⟨by decide, second_inj, ?_⟩, List.nodup_singleton _, ?_⟩
  · rintro _ ⟨i, hi, rfl⟩ _ ⟨j, hj, rfl⟩ h
    have := corner i hi
    obtain ⟨_, ej⟩ | ⟨_, ej⟩ := second j hj <;> rw [h, ej] at this <;> omega
  · rintro _ (⟨i, hi, rfl⟩ | ⟨i, hi, rfl⟩) _ rfl h
    · have := corner i hi
      rw [h] at this
      omega
    · obtain ⟨_, ei⟩ | ⟨_, ei⟩ := second i hi <;> rw [ei, Prod.mk.injEq] at h <;> omega

theorem map_cell_formatWrites (size : Nat) (b : BitVec 15) : (formatWrites size b).map ModuleWrite.cell =
    (List.range 15).map formatCell ++ (List.range 15).map (formatCell2 size) ++ [(8, size - 8)] := by
  simp [formatWrites_eq, ModuleWrite.cell, Function.comp_def]

/-- What `drawFormat` leaves at the format cells: both copies of the word, and the dark module (R209). -/
theorem get_drawAll_formatWrites {size : Nat} (lo : 21 ≤ size) (hi : size ≤ 177) (b : BitVec 15) (c : Canvas) :
    (∀ i < 15, (drawAll (formatWrites size b) c).m.get (formatCell i).1 (formatCell i).2 = b.getLsbD i ∧
      (drawAll (formatWrites size b) c).m.get (formatCell2 size i).1 (formatCell2 size i).2 = b.getLsbD i) ∧
    (drawAll (formatWrites size b) c).m.get 8 (size - 8) = true := by
  have holds : ∀ w ∈ formatWrites size b, (drawAll (formatWrites size b) c).m.get w.x w.y = w.d := fun w hw =>
    get_drawAll_of_mem (writesInside_format (by omega) b) hi (map_cell_formatWrites size b ▸ nodup_formatCells lo) hw c
  simp only [formatWrites_eq, List.mem_append, List.mem_map, List.mem_range, List.mem_singleton, or_imp, forall_and,
    forall_exists_index, and_imp, forall_apply_eq_imp_iff₂, forall_eq] at holds
  obtain ⟨⟨first, second⟩, dark⟩ := holds
  rw [formatWrites_eq]
  exact ⟨fun i hi => ⟨first i hi, second i hi⟩, dark⟩

theorem get_drawFormat_of_not_formatCell (k : Fin 8) {s : State} {x y : Nat} (h : ¬isFormatCell s.size.toNat x y) :
    (drawFormat k s).gridM.get x y = s.gridM.get x y :=
  drawAll_m_of_not_hit (fun _ hw => Bool.eq_false_iff.2 fun hit =>
    h ((covers_formatWrites _ _ _ _).1 (covers_of_hits hw hit))) s.canvas

/-- Where the format cells are function cells already, `drawFormat` leaves F as it is. -/
theorem drawFormat_gridF_of_function {s : State} (h : ∀ x y, isFormatCell s.size.toNat x y → s.gridF.get x y = true)
    (k : Fin 8) : (drawFormat k s).gridF = s.gridF := by
  refine Grid.ext_get fun x y => (drawAll_f _ s.canvas x y).trans ?_
  cases hit : (formatWrites s.size.toNat (formatBits s.ecl k)).any (·.hits x y) with
  | false => exact Bool.or_false _
  | true =>
    obtain ⟨w, hw, hxy⟩ := List.any_eq_true.1 hit
    rw [Bool.or_true, h x y ((covers_formatWrites _ _ _ _).1 (covers_of_hits hw hxy))]

/-! ### One trial (R262) -/

/-- A trial leaves F as it is: the format cells are function cells. -/
theorem PatternsInPlace.trialOn_gridF {s : State} (h : PatternsInPlace s) (k : Fin 8) : (trialOn k s).gridF = s.gridF :=
  drawFormat_gridF_of_function (s := applyMask k s) h.1 k

/-- A trial with its mask undone changes M only. -/
theorem PatternsInPlace.trialPass_frame {s : State} (h : PatternsInPlace s) (k : Fin 8) :
    (trialPass k s).2 = { s with gridM := (trialPass k s).2.gridM } := by
  have frame : (trialPass k s).2 = { s with gridM := (trialPass k s).2.gridM, gridF := (trialOn k s).gridF } := rfl
  rw [frame, h.trialOn_gridF k]

/-- The mask of a trial undoes itself, so a trial changes format cells only. -/
theorem PatternsInPlace.get_trialPass {s : State} (h : PatternsInPlace s) (hs : s.size.toNat ≤ 177) (k : Fin 8)
    {x y : Nat} (hxy : ¬isFormatCell s.size.toNat x y) : (trialPass k s).2.gridM.get x y = s.gridM.get x y := by
  have drawn : (trialOn k s).gridM.get x y = (applyMask k s).gridM.get x y :=
    get_drawFormat_of_not_formatCell (s := applyMask k s) k hxy
  have undone := get_applyMask k (trialOn k s) hs x y
  have masked := get_applyMask k s hs x y
  have size : (trialOn k s).size = s.size := rfl
  rwa [drawn, masked, h.trialOn_gridF k, size, Bool.xor_assoc, Bool.xor_self, Bool.xor_false] at undone

/-- A trial leaves the format bits of its mask, and the dark module. -/
theorem PatternsInPlace.get_trialPass_format {s : State} (h : PatternsInPlace s) (lo : 21 ≤ s.size.toNat)
    (hi : s.size.toNat ≤ 177) (k : Fin 8) :
    (∀ i < 15, (trialPass k s).2.gridM.get (formatCell i).1 (formatCell i).2 = (formatBits s.ecl k).getLsbD i ∧
      (trialPass k s).2.gridM.get (formatCell2 s.size.toNat i).1 (formatCell2 s.size.toNat i).2 =
        (formatBits s.ecl k).getLsbD i) ∧
    (trialPass k s).2.gridM.get 8 (s.size.toNat - 8) = true := by
  obtain ⟨copies, dark⟩ := get_drawAll_formatWrites lo hi (formatBits s.ecl k) (applyMask k s).canvas
  have undo : ∀ {x y}, isFormatCell s.size.toNat x y →
      (trialPass k s).2.gridM.get x y = (trialOn k s).gridM.get x y := fun hxy =>
    get_applyMask_of_function k hi (by rw [h.trialOn_gridF k, h.1 _ _ hxy])
  refine ⟨fun i hi => ⟨?_, ?_⟩, (undo (.inr rfl)).trans dark⟩
  · exact (undo (.inl ⟨i, hi, .inl rfl⟩)).trans (copies i hi).1
  · exact (undo (.inl ⟨i, hi, .inr rfl⟩)).trans (copies i hi).2

end Sys2Proof.Machine
end

section
/-! PROOF. TRIAL by hand (R120). -/
namespace Sys2Proof.Machine

/-! ### The commands of a trial where they complete (R210, R252, R261) -/

theorem exec_applyMask_of_data {s : State} (phase : s.phase = .data) (k : Fin 8) :
    exec (.applyMask (k.val : Int)) s = complete { applyMask k s with phase := .trial, trial := some k } := by
  simp [exec, execApplyMask, State.maskLegal, phase]

theorem exec_applyMask_of_trial {s : State} {k : Fin 8} (phase : s.phase = .trial) (trial : s.trial = some k) :
    exec (.applyMask (k.val : Int)) s = complete { applyMask k s with phase := .data, trial := none } := by
  simp [exec, execApplyMask, State.maskLegal, phase, trial]

theorem exec_drawFormat_of_trial {s : State} (phase : s.phase = .trial) (k : Fin 8) :
    exec (.drawFormat (k.val : Int)) s = complete (drawFormat k s) := by
  simp [exec, execDrawFormat, State.formatLegal, phase]

theorem exec_penalty_of_trial {s : State} (phase : s.phase = .trial) :
    exec .penalty s = complete { s with result := BitVec.ofNat 32 s.penalty } := by
  simp [exec, execPenalty, phase]

/-- A command that completes goes on to the rest of the list. -/
theorem succeeds_cons_of_complete {i : Instr} {is : List Instr} {s u : State} (h : exec i s = complete u) :
    succeeds (i :: is) s = succeeds is { u with err := .ok, pend := none } := by
  simp [succeeds, h]

/-- The four commands of TRIAL (R120) are one pass of the loop of `chooseMask` (R262), with its score in RESULT. -/
theorem succeeds_trial {s : State} (phase : s.phase = .data) (k : Fin 8) :
    succeeds [.applyMask (k.val : Int), .drawFormat (k.val : Int), .penalty, .applyMask (k.val : Int)] s =
      some { (trialPass k s).2 with
        phase := .data, trial := none, result := BitVec.ofNat 32 (trialOn k s).penalty, err := .ok, pend := none } := by
  rw [succeeds_cons_of_complete (exec_applyMask_of_data phase k),
    succeeds_cons_of_complete (exec_drawFormat_of_trial rfl k),
    succeeds_cons_of_complete (exec_penalty_of_trial rfl),
    succeeds_cons_of_complete (exec_applyMask_of_trial rfl rfl)]
  rfl

/-- Settles O43: TRIAL by hand is one pass of the loop of `chooseMask`, and its score fits RESULT. -/
theorem manualTrialScoresMask : Obligations.ManualTrialScoresMask := by
  unfold Obligations.ManualTrialScoresMask
  intro s m configured phase trial patterns
  obtain ⟨lo, hi⟩ := configured.size_bounds
  obtain ⟨copies, dark⟩ := patterns.get_trialPass_format lo hi m
  have fits : (trialOn m s).penalty < 2 ^ 32 := (penaltyScore_le hi _ _).trans_lt (by decide)
  refine ⟨_, succeeds_trial phase m, ?_, ?_, copies, dark, ?_⟩
  · exact (BitVec.toNat_ofNat _ _).trans (Nat.mod_eq_of_lt fits)
  · exact fun x y => patterns.get_trialPass hi m
  · rw [patterns.trialPass_frame m]
    simp only [phase, trial]

end Sys2Proof.Machine
end

section
/-! SUPPORT. The laws of `gfmul` (R141, R142). It is additive in each operand, so a law that is additive in its bytes holds
of all bytes when it holds of the eight powers of two. -/
namespace Sys2Proof.Machine

/-! ### Bytes as XORs of powers of two -/

/-- The XOR of the powers of two at the bits of `a`; the bits may be taken from any list. -/
def xorBits (a : Byte) (bits : List (Fin 8)) : Byte :=
  bits.foldr (fun i acc => (if a.getLsbD i.val then 1#8 <<< i.val else 0#8) ^^^ acc) 0#8

theorem xorBits_finRange (a : Byte) : xorBits a (List.finRange 8) = a := by
  revert a
  decide +kernel

/-- What holds of the powers of two, and of the XOR of any two bytes of which it holds, holds of every byte. -/
theorem byte_induction {P : Byte → Prop} (basis : ∀ i : Fin 8, P (1#8 <<< i.val))
    (xor : ∀ a b, P a → P b → P (a ^^^ b)) (a : Byte) : P a := by
  have zero : P 0#8 := by simpa using xor _ _ (basis 0) (basis 0)
  have fold : ∀ bits, P (xorBits a bits) := fun bits => by
    induction bits with
    | nil => exact zero
    | cons i bits ih =>
      refine xor _ _ ?_ ih
      split
      · exact basis i
      · exact zero
  exact xorBits_finRange a ▸ fold (List.finRange 8)

/-! ### `gfmul` is additive in each operand -/

theorem gfStep_eq_xor (x : Byte) (z : BitVec 9) (b : Bool) :
    gfStep x z b = (z <<< 1) ^^^ (if z.getLsbD 7 then 0x11D#9 else 0#9) ^^^ (if b then x.setWidth 9 else 0#9) := by
  cases b <;> simp [gfStep]

theorem ite_xor {w : Nat} (b c : Bool) (v : BitVec w) :
    (if b ^^ c then v else 0#w) = (if b then v else 0#w) ^^^ (if c then v else 0#w) := by
  cases b <;> cases c <;> simp

theorem gfStep_xor_left (x x' : Byte) (z z' : BitVec 9) (b : Bool) :
    gfStep (x ^^^ x') (z ^^^ z') b = gfStep x z b ^^^ gfStep x' z' b := by
  simp only [gfStep_eq_xor, BitVec.getLsbD_xor, ite_xor, BitVec.shiftLeft_xor_distrib, BitVec.setWidth_xor]
  cases b
  · simp only [Bool.false_eq_true, if_false, BitVec.xor_zero]
    ac_rfl
  · simp only [if_true]
    ac_rfl

theorem gfStep_xor_right (x : Byte) (z z' : BitVec 9) (b c : Bool) :
    gfStep x (z ^^^ z') (b ^^ c) = gfStep x z b ^^^ gfStep x z' c := by
  simp only [gfStep_eq_xor, BitVec.getLsbD_xor, ite_xor, BitVec.shiftLeft_xor_distrib]
  ac_rfl

/-- `gfmul` as one fold over the bit numbers of `y`. -/
theorem gfmul_eq_foldl (x y : Byte) :
    gfmul x y = ([7, 6, 5, 4, 3, 2, 1, 0].foldl (fun z i => gfStep x z (y.getLsbD i)) 0#9).setWidth 8 := by
  rw [gfmul, List.foldl_map]

theorem xor_gfmul (a b c : Byte) : gfmul (a ^^^ b) c = gfmul a c ^^^ gfmul b c := by
  simp only [gfmul_eq_foldl, ← BitVec.setWidth_xor]
  congr 1
  exact List.foldl_hom₂ _ (· ^^^ ·) _ _ _ 0#9 0#9 fun z z' _ => (gfStep_xor_left a b z z' _).symm

theorem gfmul_xor (a b c : Byte) : gfmul a (b ^^^ c) = gfmul a b ^^^ gfmul a c := by
  simp only [gfmul_eq_foldl, ← BitVec.setWidth_xor, BitVec.getLsbD_xor]
  congr 1
  exact List.foldl_hom₂ _ (· ^^^ ·) _ _ _ 0#9 0#9 fun z z' _ => (gfStep_xor_right a z z' _ _).symm

/-! ### The carry-less product and its reduction are additive -/

theorem ite_xor_add (b c : Bool) (p q v : Nat) :
    (if b ^^ c then p ^^^ q ^^^ v else p ^^^ q) = (if b then p ^^^ v else p) ^^^ (if c then q ^^^ v else q) := by
  have cancel : (p ^^^ v) ^^^ (q ^^^ v) = p ^^^ q := by
    rw [Nat.xor_comm q v, Nat.xor_assoc, Nat.xor_xor_cancel_left]
  cases b <;> cases c <;> simp [cancel] <;> ac_rfl

theorem clProduct_xor_left (x x' y : Byte) : clProduct (x ^^^ x') y = clProduct x y ^^^ clProduct x' y := by
  unfold clProduct
  refine List.foldl_hom₂ _ (· ^^^ ·) _ _ _ 0 0 fun p q i => ?_
  split
  · rw [BitVec.toNat_xor, Nat.shiftLeft_xor_distrib]
    ac_rfl
  · rfl

theorem clProduct_xor_right (x y y' : Byte) : clProduct x (y ^^^ y') = clProduct x y ^^^ clProduct x y' := by
  unfold clProduct
  refine List.foldl_hom₂ _ (· ^^^ ·) _ _ _ 0 0 fun p q i => ?_
  rw [BitVec.getLsbD_xor, ite_xor_add]

theorem reduce11D_xor (p q : Nat) : reduce11D (p ^^^ q) = reduce11D p ^^^ reduce11D q := by
  unfold reduce11D
  refine List.foldl_hom₂ _ (· ^^^ ·) _ _ _ p q fun p q k => ?_
  rw [Nat.testBit_xor, ite_xor_add]

/-- R141: the two ways of multiplying agree, since both are additive in each operand and agree on powers of two. -/
theorem toNat_gfmul (x y : Byte) : (gfmul x y).toNat = reduce11D (clProduct x y) := by
  induction x using byte_induction with
  | xor a b ha hb => rw [xor_gfmul, BitVec.toNat_xor, ha, hb, clProduct_xor_left, reduce11D_xor]
  | basis i =>
    induction y using byte_induction with
    | xor a b ha hb => rw [gfmul_xor, BitVec.toNat_xor, ha, hb, clProduct_xor_right, reduce11D_xor]
    | basis j =>
      revert i j
      decide +kernel

/-! ### The laws of a commutative ring (R142) -/

theorem gfmul_comm (a b : Byte) : gfmul a b = gfmul b a := by
  induction a using byte_induction with
  | xor a a' ha ha' => rw [xor_gfmul, gfmul_xor, ha, ha']
  | basis i =>
    induction b using byte_induction with
    | xor b b' hb hb' => rw [xor_gfmul, gfmul_xor, hb, hb']
    | basis j =>
      revert i j
      decide +kernel

@[simp] theorem gfmul_one (a : Byte) : gfmul a 1#8 = a := by
  induction a using byte_induction with
  | xor a b ha hb => rw [xor_gfmul, ha, hb]
  | basis i =>
    revert i
    decide

@[simp] theorem one_gfmul (a : Byte) : gfmul 1#8 a = a := by rw [gfmul_comm, gfmul_one]

@[simp] theorem gfmul_zero (a : Byte) : gfmul a 0#8 = 0#8 := by simpa using gfmul_xor a 0#8 0#8

@[simp] theorem zero_gfmul (a : Byte) : gfmul 0#8 a = 0#8 := by rw [gfmul_comm, gfmul_zero]

/-- Doubling may be done before or after a product. -/
theorem gfmul_gfmul_two (a b : Byte) : gfmul a (gfmul b 2) = gfmul (gfmul a b) 2 := by
  induction a using byte_induction with
  | xor a a' ha ha' => rw [xor_gfmul, xor_gfmul, xor_gfmul, ha, ha']
  | basis i =>
    induction b using byte_induction with
    | xor b b' hb hb' => rw [xor_gfmul, gfmul_xor, gfmul_xor, xor_gfmul, hb, hb']
    | basis j =>
      revert i j
      decide +kernel

theorem gfmul_assoc_gfPow (a b : Byte) (n : Nat) : gfmul (gfmul a b) (gfPow n) = gfmul a (gfmul b (gfPow n)) := by
  induction n with
  | zero => simp [gfPow]
  | succ n ih => rw [gfPow, gfmul_gfmul_two, ih, ← gfmul_gfmul_two, ← gfmul_gfmul_two]

theorem one_shiftLeft_eq_gfPow (i : Fin 8) : 1#8 <<< i.val = gfPow i.val := by
  revert i
  decide +kernel

theorem gfmul_assoc (a b c : Byte) : gfmul (gfmul a b) c = gfmul a (gfmul b c) := by
  induction c using byte_induction with
  | xor c c' hc hc' => rw [gfmul_xor, gfmul_xor, gfmul_xor, hc, hc']
  | basis i => rw [one_shiftLeft_eq_gfPow, gfmul_assoc_gfPow]

/-! ### 2 is primitive (R142) -/

theorem gfPow_add (i j : Nat) : gfPow (i + j) = gfmul (gfPow i) (gfPow j) := by
  induction j with
  | zero => simp [gfPow]
  | succ j ih => rw [← Nat.add_assoc, gfPow, ih, gfPow, gfmul_assoc]

theorem gfPow_eq_iterate (n : Nat) : gfPow n = (fun a => gfmul a 2)^[n] 1 := by
  induction n with
  | zero => rfl
  | succ n ih => rw [gfPow, ih, Function.iterate_succ_apply']

theorem gfPow_255 : gfPow 255 = 1 := by decide +kernel

/-- The order of 2 divides 255, and no proper divisor of 255 is a period. -/
theorem minimalPeriod_double : Function.minimalPeriod (fun a => gfmul a 2) 1 = 255 := by
  have isPeriodicPt_iff : ∀ n, Function.IsPeriodicPt (fun a => gfmul a 2) n 1 ↔ gfPow n = 1 := fun n => by
    rw [gfPow_eq_iterate]
    rfl
  have divides := ((isPeriodicPt_iff 255).2 gfPow_255).minimalPeriod_dvd
  have period := (isPeriodicPt_iff _).1 (Function.isPeriodicPt_minimalPeriod (fun a => gfmul a 2) 1)
  have proper : ∀ k ∈ Nat.properDivisors 255, gfPow k ≠ 1 := by decide +kernel
  by_contra hne
  exact proper _ (Nat.mem_properDivisors.2 ⟨divides, (Nat.le_of_dvd (by decide) divides).lt_of_ne hne⟩) period

theorem gfPow_injOn : Set.InjOn gfPow (Set.Iio 255) := by
  have h := Function.iterate_injOn_Iio_minimalPeriod (f := fun a => gfmul a 2) (x := 1)
  rw [minimalPeriod_double] at h
  exact h.congr fun n _ => (gfPow_eq_iterate n).symm

theorem gfPow_ne_zero (n : Nat) : gfPow n ≠ 0 := by
  have double : ∀ a : Byte, gfmul a 2 = 0 → a = 0 := by decide +kernel
  induction n with
  | zero => decide
  | succ n ih => exact fun h => ih (double _ h)

/-- Every byte but 0 is a power of 2: the first 255 powers differ, and there are 255 such bytes. -/
theorem exists_gfPow_eq {a : Byte} (h : a ≠ 0) : ∃ n, gfPow n = a := by
  have sub : (Finset.range 255).image gfPow ⊆ Finset.univ.erase 0 := fun b hb => by
    obtain ⟨n, -, rfl⟩ := Finset.mem_image.1 hb
    exact Finset.mem_erase.2 ⟨gfPow_ne_zero n, Finset.mem_univ _⟩
  have card : ((Finset.range 255).image gfPow).card = 255 := by
    rw [Finset.card_image_of_injOn (by simpa using gfPow_injOn), Finset.card_range]
  have all := Finset.eq_of_subset_of_card_le sub (by rw [card]; decide +kernel)
  have ha : a ∈ (Finset.range 255).image gfPow := all ▸ Finset.mem_erase.2 ⟨h, Finset.mem_univ a⟩
  obtain ⟨n, -, hn⟩ := Finset.mem_image.1 ha
  exact ⟨n, hn⟩

theorem eq_zero_of_gfmul_eq_zero {a b : Byte} (h : gfmul a b = 0) : a = 0 ∨ b = 0 := by
  by_contra hne
  obtain ⟨ha, hb⟩ := not_or.1 hne
  obtain ⟨i, rfl⟩ := exists_gfPow_eq ha
  obtain ⟨j, rfl⟩ := exists_gfPow_eq hb
  exact gfPow_ne_zero (i + j) ((gfPow_add i j).trans h)

end Sys2Proof.Machine
end

section
/-! PROOF. GF(256) multiplication (R141, R142, R146). -/
namespace Sys2Proof.Machine

/-- Settles O18: the loop of `gfmul` computes the reduced carry-less product, which fits RESULT. -/
theorem gfMulLeavesReducedProduct : Obligations.GfMulLeavesReducedProduct := by
  unfold Obligations.GfMulLeavesReducedProduct
  intro s x y
  refine ⟨_, rfl, ?_, rfl⟩
  exact (BitVec.toNat_setWidth_of_le (by decide)).trans (toNat_gfmul x y)

/-- Settles O19: the laws hold of all bytes since they hold of the powers of two, and the order of 2 is 255. -/
theorem gfMulIsFieldMultiplication : Obligations.GfMulIsFieldMultiplication := by
  unfold Obligations.GfMulIsFieldMultiplication
  exact ⟨gfmul_comm, gfmul_assoc, fun a => ⟨gfmul_one a, gfmul_zero a⟩, gfmul_xor,
    fun _ _ => eq_zero_of_gfmul_eq_zero, fun _ _ hi hj => gfPow_injOn hi hj, gfPow_255⟩

end Sys2Proof.Machine
end

section
/-! SUPPORT. Products of polynomials over GF(256), the generator polynomial as one (R143), and the division that
`remainder` makes (R144, R145). -/
namespace Sys2Proof.Machine

/-! ### XOR of lists of coefficients -/

theorem zipWith_xor_replicate_zero (l : List Byte) : List.zipWith (· ^^^ ·) l (List.replicate l.length 0) = l := by
  induction l with
  | nil => rfl
  | cons a l ih => simpa [List.replicate_succ] using ih

theorem zipWith_replicate_zero_xor (l : List Byte) : List.zipWith (· ^^^ ·) (List.replicate l.length 0) l = l := by
  rw [List.zipWith_comm_of_comm BitVec.xor_comm, zipWith_xor_replicate_zero]

theorem zipWith_xor_assoc (l m n : List Byte) :
    List.zipWith (· ^^^ ·) (List.zipWith (· ^^^ ·) l m) n = List.zipWith (· ^^^ ·) l (List.zipWith (· ^^^ ·) m n) := by
  apply List.ext_getElem
  · simp [Nat.min_assoc]
  · intro k _ _
    simp [BitVec.xor_assoc]

/-! ### `polyMul` -/

theorem polyMul_cons (a : Byte) (q g : List Byte) :
    polyMul (a :: q) g =
      (g.map (gfmul a) ++ List.replicate q.length 0).zipWith (· ^^^ ·) (0 :: polyMul q g) := rfl

@[simp] theorem length_polyMul (q : List Byte) {g : List Byte} (hg : g ≠ []) :
    (polyMul q g).length = q.length + g.length - 1 := by
  have pos := List.length_pos_iff.2 hg
  induction q with
  | nil => simp [polyMul]
  | cons a q ih =>
    simp only [polyMul_cons, List.length_zipWith, List.length_append, List.length_map, List.length_replicate,
      List.length_cons, ih]
    omega

/-- One more low coefficient of the left factor: the product moves up one power, and takes the right factor times it. -/
theorem polyMul_concat (q : List Byte) (a b : Byte) (g : List Byte) :
    polyMul (q ++ [a]) (b :: g) =
      (polyMul q (b :: g) ++ [0]).zipWith (· ^^^ ·) (List.replicate q.length 0 ++ (b :: g).map (gfmul a)) := by
  induction q with
  | nil => simp [polyMul, ← List.replicate_succ', List.replicate_succ, List.zipWith_comm_of_comm BitVec.xor_comm]
  | cons c q ih =>
    have shorter : (b :: g).map (gfmul c) ++ List.replicate (q ++ [a]).length 0 =
        ((b :: g).map (gfmul c) ++ List.replicate q.length 0) ++ [0] := by
      simp [List.replicate_succ']
    have higher : polyMul (c :: q) (b :: g) ++ [0] =
        (((b :: g).map (gfmul c) ++ List.replicate q.length 0) ++ [0]).zipWith (· ^^^ ·)
          (0 :: polyMul q (b :: g) ++ [0]) := by
      rw [polyMul_cons, List.zipWith_append (by simp; omega)]
      rfl
    rw [List.cons_append, polyMul_cons, ih, shorter, higher, zipWith_xor_assoc]
    rfl

/-! ### The generator polynomial (R143) -/

/-- `mulRoot` is the product with (x ⊕ root), without its highest coefficient. -/
theorem polyMul_root (root a : Byte) (q : List Byte) : polyMul (a :: q) [1, root] = a :: mulRoot root (a :: q) := by
  induction q generalizing a with
  | nil => simp [polyMul, mulRoot]
  | cons b q ih =>
    have rest := zipWith_replicate_zero_xor (mulRoot root (b :: q))
    rw [polyMul_cons, ih]
    simpa [mulRoot] using rest

/-- While the polynomial leaves the array's first bytes 0, the leading 1 moves up one byte. -/
theorem mulRoot_replicate_zero (root : Byte) (m : Nat) (p : List Byte) :
    mulRoot root (List.replicate (m + 1) 0 ++ 1 :: p) = List.replicate m 0 ++ 1 :: mulRoot root (1 :: p) := by
  induction m with
  | zero => simp [mulRoot]
  | succ m ih =>
    have first : mulRoot root (0 :: 0 :: (List.replicate m 0 ++ 1 :: p)) =
        0 :: mulRoot root (0 :: (List.replicate m 0 ++ 1 :: p)) := by simp [mulRoot]
    exact first.trans (congrArg (0 :: ·) ih)

/-- The loop multiplies by the next factors; the last of them drives the leading 1 out of the array. -/
theorem cons_divisorLoop (m i : Nat) (p : List Byte) :
    1 :: divisorLoop (m + 1) (gfPow i) (List.replicate m 0 ++ 1 :: p) =
      (List.range' i (m + 1)).foldl (fun p i => polyMul p [1, gfPow i]) (1 :: p) := by
  induction m generalizing i p with
  | zero => exact (polyMul_root (gfPow i) 1 p).symm
  | succ m ih =>
    rw [divisorLoop, mulRoot_replicate_zero, List.range'_succ (n := m + 1), List.foldl_cons, polyMul_root]
    exact ih (i + 1) (mulRoot (gfPow i) (1 :: p))

theorem cons_divisor {d : Nat} (pos : d ≠ 0) : 1 :: divisor d = generatorPoly d := by
  obtain ⟨m, rfl⟩ := Nat.exists_eq_succ_of_ne_zero pos
  rw [generatorPoly, List.range_eq_range', ← cons_divisorLoop]
  rfl

/-! ### Division with remainder (R144, R145) -/

/-- One data byte more: the factor of `remainderStep` is the next coefficient of the quotient. -/
theorem polyMul_remainderStep {q data div r : List Byte} (hr : r.length = div.length) (hq : q.length = data.length)
    (h : polyMul q (1 :: div) = data ++ r) (b : Byte) :
    polyMul (q ++ [b ^^^ r.headD 0]) (1 :: div) = data ++ [b] ++ remainderStep div r b := by
  rw [polyMul_concat, h, hq, List.append_assoc, List.zipWith_append (by simp), zipWith_xor_replicate_zero,
    List.append_assoc]
  cases r with
  | nil =>
    obtain rfl : div = [] := List.length_eq_zero_iff.1 hr.symm
    simp [remainderStep]
  | cons c r =>
    have cancel : c ^^^ (b ^^^ c) = b := by rw [BitVec.xor_comm b, ← BitVec.xor_assoc]; simp
    have comm : gfmul (b ^^^ c) = fun g => gfmul g (b ^^^ c) := funext fun g => gfmul_comm _ _
    simp [remainderStep, cancel, List.zipWith_map_right, comm]

theorem exists_quotient (data div : List Byte) :
    ∃ q : List Byte, q.length = data.length ∧ polyMul q (1 :: div) = data ++ remainder data div := by
  induction data using List.reverseRecOn with
  | nil => exact ⟨[], rfl, by simp [polyMul, remainder]⟩
  | append_singleton data b ih =>
    obtain ⟨q, hq, h⟩ := ih
    refine ⟨q ++ [b ^^^ (remainder data div).headD 0], by simp [hq], ?_⟩
    rw [polyMul_remainderStep (length_remainder _ _) hq h]
    simp [remainder]

end Sys2Proof.Machine
end

section
/-! PROOF. RS_DIVISOR and RS_REMAINDER (R147, R148). -/
namespace Sys2Proof.Machine

/-! ### DIV and REM after a store (R51, R52) -/

theorem read_store_pad256 {base j : Nat} (ha : inArray (base + j) = true) (hj : j < 256) (m : Memory) (bs : List Byte) :
    (m.store base (pad256 bs)).read (base + j) = some (bs.getD j 0) := by
  rw [Memory.read_store_in (Nat.le_add_right _ _) (by simpa using hj) ha, Nat.add_sub_cancel_left, getD_pad256 hj]

theorem read_store_pad256_outside {base a : Nat} (h : ¬(base ≤ a ∧ a < base + 256)) (m : Memory) (bs : List Byte) :
    (m.store base (pad256 bs)).read a = m.read a :=
  Memory.read_store_out (by rw [length_pad256]; omega) m

theorem bytes_store_pad256 {base : Nat} {bs : List Byte} (ha : ∀ j < 256, inArray (base + j) = true)
    (hl : bs.length ≤ 256) (m : Memory) : (m.store base (pad256 bs)).bytes base bs.length = bs := by
  refine List.ext_getElem (by simp) fun j h _ => ?_
  have hj : j < bs.length := by simpa using h
  simp [Memory.bytes, read_store_pad256 (ha j (by omega)) (by omega), hj]

/-! ### The commands where they complete (R147, R148) -/

theorem exec_rsDivisor {d : Nat} (pos : d ≠ 0) (s : State) : exec (.rsDivisor d) s = complete (loadDivisor d s) := by
  simp [exec, execRsDivisor, pos]

theorem exec_rsRemainder {s : State} {off len : Nat} {data : List Byte} (deg : s.deg ≠ 0) (range : off + len ≤ 2956)
    (written : s.dataBytes off len = some data) :
    exec (.rsRemainder off len) s = complete (loadRemainder (remainder data s.divisorBytes) s) := by
  simp only [exec, execRsRemainder, if_neg deg, if_neg (Nat.not_lt.2 range), written]

/-- Settles O20: the loop of `divisor` multiplies the factors (x ⊕ 2^i), and DIV holds the product without its leading 1. -/
theorem rsDivisorBuildsGenerator : Obligations.RsDivisorBuildsGenerator := by
  unfold Obligations.RsDivisorBuildsGenerator
  intro s d pos le
  refine ⟨_, exec_rsDivisor (by omega) s, ?deg, ?generator, ?above, ?frame, rfl⟩
  case deg => exact Nat.mod_eq_of_lt (by omega)
  case generator =>
    have stored := bytes_store_pad256 (bs := divisor d) (fun _ => inArray_div) (by simp; omega) s.mem
    rw [length_divisor] at stored
    exact (congrArg (1 :: ·) stored).trans (cons_divisor (by omega))
  case above =>
    intro j hj hlt
    exact (read_store_pad256 (inArray_div hlt) hlt _ _).trans (by rw [List.getD_eq_default _ _ (by simpa using hj)])
  case frame => exact fun off out => read_store_pad256_outside (of_decide_eq_false out) _ _

/-- Settles O21: the factors of the division are the coefficients of the quotient, and REM holds the remainder. -/
theorem rsRemainderDividesData : Obligations.RsRemainderDividesData := by
  unfold Obligations.RsRemainderDividesData
  intro s off len data deg range written
  obtain ⟨q, hq, division⟩ := exists_quotient data s.divisorBytes
  refine ⟨_, q, remainder data s.divisorBytes, exec_rsRemainder deg range written, ?quotient, ?remainder, division,
    ?rem, ?frame, rfl⟩
  case quotient => exact hq.trans (Memory.readBytes_eq_some.1 written).1
  case remainder => exact (length_remainder _ _).trans (Memory.length_bytes _ _ _)
  case rem => exact fun j hj => read_store_pad256 (inArray_rem hj) hj _ _
  case frame => exact fun a out => read_store_pad256_outside (of_decide_eq_false out) _ _

end Sys2Proof.Machine
end

section
/-! SUPPORT. The block layout of R177 by index, and the interleaved stream of R179 as three runs of columns. -/
namespace Sys2Proof.Machine

/-! ### The layout CONFIG leaves (R172, R176, R177) -/

/-- The facts of R172's tables that the arithmetic of R177 rests on. -/
theorem symbol_tables {v : Nat} (pos : 1 ≤ v) (le : v ≤ 40) (e : Ecl) :
    0 < numBlocks e v ∧ 0 < eccPerBlock e v ∧ eccPerBlock e v ≤ shortBlockLength v e ∧ rawCodewords v ≤ 3708 := by
  have table : ∀ v < 40, 0 < numBlocks e (v + 1) ∧ 0 < eccPerBlock e (v + 1) ∧
      eccPerBlock e (v + 1) ≤ shortBlockLength (v + 1) e ∧ rawCodewords (v + 1) ≤ 3708 := by
    cases e <;> decide +kernel
  obtain ⟨u, rfl⟩ := Nat.exists_eq_add_of_le' pos
  exact table u (by omega)

section Registers
variable {s : State} (h : Configured s)
include h

theorem Configured.nblk_pos : 0 < s.nblk.toNat := by
  obtain ⟨pos, -, -, -⟩ := symbol_tables h.version_pos h.version_le s.ecl
  rwa [h.nblk_eq]

theorem Configured.ecclen_pos : 0 < s.ecclen.toNat := by
  obtain ⟨-, pos, -, -⟩ := symbol_tables h.version_pos h.version_le s.ecl
  rwa [h.ecclen_eq]

theorem Configured.ecclen_le : s.ecclen.toNat ≤ s.sblen.toNat := by
  obtain ⟨-, -, le, -⟩ := symbol_tables h.version_pos h.version_le s.ecl
  rwa [h.ecclen_eq, h.sblen_eq]

theorem Configured.nrc_le : s.nrc.toNat ≤ 3708 := by
  obtain ⟨-, -, -, le⟩ := symbol_tables h.version_pos h.version_le s.ecl
  rwa [h.nrc_eq]

theorem Configured.sblen_eq_div : s.sblen.toNat = s.nrc.toNat / s.nblk.toNat := by
  rw [h.sblen_eq, h.nrc_eq, h.nblk_eq, shortBlockLength]

/-- The subtraction of NDC (R173) as a sum. -/
theorem Configured.ndc_add : s.ndc.toNat + s.ecclen.toNat * s.nblk.toNat = s.nrc.toNat := by
  have fits : s.ecclen.toNat * s.nblk.toNat ≤ s.nrc.toNat :=
    (Nat.le_div_iff_mul_le h.nblk_pos).1 (h.sblen_eq_div ▸ h.ecclen_le)
  have ndc : s.ndc.toNat = s.nrc.toNat - s.ecclen.toNat * s.nblk.toNat := by
    rw [h.ndc_eq, h.nrc_eq, h.ecclen_eq, h.nblk_eq, dataCodewords]
  omega

/-- The subtraction of NSHORT (R177) as a sum. -/
theorem Configured.nshort_add : s.nshort.toNat + s.nrc.toNat % s.nblk.toNat = s.nblk.toNat := by
  have lt := Nat.mod_lt s.nrc.toNat h.nblk_pos
  have nshort : s.nshort.toNat = s.nblk.toNat - s.nrc.toNat % s.nblk.toNat := by
    rw [h.nshort_eq, h.nrc_eq, h.nblk_eq, shortBlocks]
  omega

end Registers

/-- The counts of R177: every block of SBLEN + 1 bytes, the pad byte of a short block among them, and NDC and NRC as sums
over the blocks. -/
structure LayoutFits (l : Layout) (ndc nrc : Nat) : Prop where
  nblk_pos : 0 < l.nblk
  nshort_le : l.nshort ≤ l.nblk
  sblen_eq : l.sblen = l.shortData + l.ecclen
  ndc_eq : ndc = l.shortData * l.nblk + (l.nblk - l.nshort)
  nrc_eq : nrc = ndc + l.ecclen * l.nblk

theorem Configured.layoutFits {s : State} (h : Configured s) : LayoutFits s.layout s.ndc.toNat s.nrc.toNat := by
  have total := h.ndc_add
  have short := h.nshort_add
  have ecc := h.ecclen_le
  have perBlock := Nat.mul_le_mul_right s.nblk.toNat ecc
  have quotient := Nat.div_add_mod' s.nrc.toNat s.nblk.toNat
  rw [← h.sblen_eq_div] at quotient
  have data : s.layout.shortData * s.nblk.toNat = s.sblen.toNat * s.nblk.toNat - s.ecclen.toNat * s.nblk.toNat :=
    Nat.sub_mul _ _ _
  constructor
  case nblk_pos => exact h.nblk_pos
  case nshort_le => exact (Nat.le_add_right _ _).trans_eq short
  case sblen_eq => exact (Nat.sub_add_cancel ecc).symm
  case ndc_eq =>
    simp only [State.layout] at data ⊢
    omega
  case nrc_eq => exact total.symm

/-! ### The blocks by index (R177) -/

/-- Block `j` (R177). -/
def blockAt (l : Layout) (data : List Byte) (j : Nat) : List Byte :=
  makeBlock l (divisor l.ecclen) j (blockData l data j)

theorem blockStart_succ (l : Layout) (j : Nat) : blockStart l (j + 1) = blockStart l j + blockLength l j := by
  simp only [blockStart, blockLength, Nat.succ_mul]
  split <;> omega

theorem blockStart_mono (l : Layout) : Monotone (blockStart l) :=
  monotone_nat_of_le_succ fun j => by rw [blockStart_succ]; omega

theorem splitFrom_eq_map (l : Layout) (data : List Byte) (n i : Nat) :
    splitFrom l (divisor l.ecclen) n i (data.drop (blockStart l i)) = (List.range' i n).map (blockAt l data) := by
  induction n generalizing i with
  | zero => rfl
  | succ n ih =>
    have length : l.shortData + (if i < l.nshort then 0 else 1) = blockLength l i := by
      unfold blockLength
      split <;> rfl
    rw [splitFrom, length, List.drop_drop, ← blockStart_succ, ih, List.range'_succ, List.map_cons, blockAt, blockData]

/-- `splitBlocks` (R177) by index. -/
theorem splitBlocks_eq_map (l : Layout) (data : List Byte) :
    splitBlocks l data = (List.range l.nblk).map (blockAt l data) := by
  have start : blockStart l 0 = 0 := by simp [blockStart]
  have split := splitFrom_eq_map l data l.nblk 0
  rwa [start, List.drop_zero, ← List.range_eq_range'] at split

theorem LayoutFits.length_blockData {l : Layout} {data : List Byte} {nrc j : Nat} (h : LayoutFits l data.length nrc)
    (hj : j < l.nblk) : (blockData l data j).length = blockLength l j := by
  have last : blockStart l l.nblk = data.length := by rw [h.ndc_eq, blockStart, Nat.mul_comm]
  have next : blockStart l (j + 1) ≤ blockStart l l.nblk := blockStart_mono l hj
  rw [blockStart_succ] at next
  simp only [blockData, List.length_take, List.length_drop]
  omega

/-- A block begins with its data. -/
theorem getD_blockAt_data {l : Layout} {data : List Byte} {i j : Nat} (hi : i < (blockData l data j).length) :
    (blockAt l data j).getD i 0 = (blockData l data j).getD i 0 := by
  rw [blockAt, makeBlock, List.append_assoc, List.getD_append _ _ _ _ hi]

/-- After its data, and the pad byte if it is short, a block is its ECC. -/
theorem drop_blockAt {l : Layout} {data : List Byte} {j : Nat} (h : (blockData l data j).length = blockLength l j) :
    (blockAt l data j).drop (l.shortData + 1) = blockEcc l data j := by
  have padded : (blockData l data j ++ if j < l.nshort then [0] else []).length = l.shortData + 1 := by
    rw [List.length_append, h, blockLength]
    split <;> rfl
  rw [blockAt, makeBlock, ← padded, List.drop_left, blockEcc]

theorem getD_blockAt_ecc {l : Layout} {data : List Byte} {j : Nat} (h : (blockData l data j).length = blockLength l j)
    (i : Nat) : (blockAt l data j).getD (l.shortData + 1 + i) 0 = (blockEcc l data j).getD i 0 := by
  simp only [← drop_blockAt h, List.getD_eq_getElem?_getD, List.getElem?_drop]

/-- REM takes the ECC of block NBLK − 1 (R180). -/
theorem LayoutFits.lastEcc_splitBlocks {l : Layout} {data : List Byte} {nrc : Nat} (h : LayoutFits l data.length nrc) :
    lastEcc l (splitBlocks l data) = blockEcc l data (l.nblk - 1) := by
  have pos := h.nblk_pos
  have last : (splitBlocks l data).getLast? = some (blockAt l data (l.nblk - 1)) := by
    rw [splitBlocks_eq_map, List.getLast?_map, List.getLast?_range, if_neg pos.ne', Option.map_some]
  rw [lastEcc, last, Option.getD_some, drop_blockAt (h.length_blockData (by omega))]

/-! ### The columns of the interleave (R179) -/

/-- `n` columns of `width` bytes, column after column, `f i j` being byte `j` of column `i`. -/
def columns (width : Nat) (f : Nat → Nat → Byte) (n : Nat) : List Byte :=
  (List.range n).flatMap fun i => (List.range width).map (f i)

@[simp] theorem length_columns (width : Nat) (f : Nat → Nat → Byte) (n : Nat) :
    (columns width f n).length = n * width := by
  simp [columns, List.length_flatMap]

theorem columns_succ (width : Nat) (f : Nat → Nat → Byte) (n : Nat) :
    columns width f (n + 1) = columns width f n ++ (List.range width).map (f n) := by
  simp [columns, List.range_succ]

theorem getElem?_columns {width i j n : Nat} (f : Nat → Nat → Byte) (hi : i < n) (hj : j < width) :
    (columns width f n)[i * width + j]? = some (f i j) := by
  induction n with
  | zero => omega
  | succ n ih =>
    rw [columns_succ]
    obtain hlt | rfl := Nat.lt_succ_iff_lt_or_eq.1 hi
    · obtain ⟨inside, -⟩ := List.getElem?_eq_some_iff.1 (ih hlt)
      rw [List.getElem?_append_left inside, ih hlt]
    · rw [List.getElem?_append_right (by simp), length_columns, Nat.add_sub_cancel_left]
      simp [hj]

theorem interleaveColumn_splitBlocks (l : Layout) (data : List Byte) (i : Nat) :
    interleaveColumn l (splitBlocks l data) i = (List.range l.nblk).filterMap fun j =>
      if i ≠ l.shortData ∨ l.nshort ≤ j then some ((blockAt l data j).getD i 0) else none := by
  have indexed : (splitBlocks l data).zipIdx = (List.range l.nblk).map fun j => (blockAt l data j, j) := by
    refine List.ext_getElem (by simp [splitBlocks_eq_map]) fun j _ _ => ?_
    simp [splitBlocks_eq_map]
  rw [interleaveColumn, indexed, List.filterMap_map]
  rfl

/-- A column beside that of the pad bytes has a byte of every block. -/
theorem interleaveColumn_of_ne {l : Layout} {i : Nat} (hi : i ≠ l.shortData) (data : List Byte) :
    interleaveColumn l (splitBlocks l data) i = (List.range l.nblk).map fun j => (blockAt l data j).getD i 0 := by
  simp [interleaveColumn_splitBlocks, hi]

/-- The column of the pad bytes has the bytes of the long blocks. -/
theorem interleaveColumn_shortData {l : Layout} (h : l.nshort ≤ l.nblk) (data : List Byte) :
    interleaveColumn l (splitBlocks l data) l.shortData =
      (List.range (l.nblk - l.nshort)).map fun k => (blockAt l data (l.nshort + k)).getD l.shortData 0 := by
  obtain ⟨long, hl⟩ := Nat.exists_eq_add_of_le h
  have short : ∀ j ∈ List.range l.nshort, ¬(l.shortData ≠ l.shortData ∨ l.nshort ≤ j) := fun j hj => by
    simpa using hj
  rw [interleaveColumn_splitBlocks, hl, List.range_add, List.filterMap_append, List.filterMap_map, Nat.add_sub_cancel_left,
    List.filterMap_eq_nil_iff.2 fun j hj => if_neg (short j hj), List.nil_append]
  simp

/-- The stream of R179: the data bytes every block has, the extra byte of the long blocks, the ECC bytes. -/
theorem LayoutFits.interleave_splitBlocks {l : Layout} {data : List Byte} {nrc : Nat} (h : LayoutFits l data.length nrc) :
    interleave l (splitBlocks l data) =
      columns l.nblk (fun i j => (blockData l data j).getD i 0) l.shortData ++
        (List.range (l.nblk - l.nshort)).map (fun k => (blockData l data (l.nshort + k)).getD l.shortData 0) ++
        columns l.nblk (fun i j => (blockEcc l data j).getD i 0) l.ecclen := by
  have common : ∀ i ∈ List.range l.shortData, interleaveColumn l (splitBlocks l data) i =
      (List.range l.nblk).map fun j => (blockData l data j).getD i 0 := fun i hi => by
    have lt : i < l.shortData := List.mem_range.1 hi
    rw [interleaveColumn_of_ne lt.ne]
    refine List.map_congr_left fun j hj => getD_blockAt_data ?_
    rw [h.length_blockData (List.mem_range.1 hj), blockLength]
    split <;> omega
  have extra : ∀ k ∈ List.range (l.nblk - l.nshort), (blockAt l data (l.nshort + k)).getD l.shortData 0 =
      (blockData l data (l.nshort + k)).getD l.shortData 0 := fun k hk => by
    have lt : k < l.nblk - l.nshort := List.mem_range.1 hk
    apply getD_blockAt_data
    rw [h.length_blockData (by omega), blockLength, if_neg (by omega)]
    exact Nat.lt_succ_self _
  have ecc : ∀ i ∈ List.range l.ecclen, interleaveColumn l (splitBlocks l data) (l.shortData + 1 + i) =
      (List.range l.nblk).map fun j => (blockEcc l data j).getD i 0 := fun i _ => by
    rw [interleaveColumn_of_ne (by omega)]
    exact List.map_congr_left fun j hj => getD_blockAt_ecc (h.length_blockData (List.mem_range.1 hj)) i
  have count : l.sblen + 1 = l.shortData + 1 + l.ecclen := by rw [h.sblen_eq]; omega
  rw [interleave, count, List.range_add, List.range_succ, List.flatMap_append, List.flatMap_append, List.flatMap_singleton,
    List.flatMap_map, List.flatMap_congr common, List.flatMap_congr ecc, interleaveColumn_shortData h.nshort_le,
    List.map_congr_left extra, columns, columns]

theorem LayoutFits.length_interleave {l : Layout} {data : List Byte} {nrc : Nat} (h : LayoutFits l data.length nrc) :
    (interleave l (splitBlocks l data)).length = nrc := by
  rw [h.interleave_splitBlocks, h.nrc_eq, h.ndc_eq]
  simp [Nat.add_assoc]

section Codewords
variable {l : Layout} {data : List Byte} {nrc : Nat} (h : LayoutFits l data.length nrc)
include h

/-- The codewords from the data bytes that every block has. -/
theorem LayoutFits.getElem?_interleave_data {i j : Nat} (hi : i < l.shortData) (hj : j < l.nblk) :
    (interleave l (splitBlocks l data))[i * l.nblk + j]? = some ((blockData l data j).getD i 0) := by
  have column := getElem?_columns (fun i j => (blockData l data j).getD i 0) hi hj
  obtain ⟨inside, -⟩ := List.getElem?_eq_some_iff.1 column
  rw [h.interleave_splitBlocks, List.append_assoc, List.getElem?_append_left inside, column]

/-- The codewords from the extra bytes of the long blocks. -/
theorem LayoutFits.getElem?_interleave_extra {j : Nat} (long : l.nshort ≤ j) (hj : j < l.nblk) :
    (interleave l (splitBlocks l data))[l.shortData * l.nblk + (j - l.nshort)]? =
      some ((blockData l data j).getD l.shortData 0) := by
  have hk : j - l.nshort < l.nblk - l.nshort := by omega
  rw [h.interleave_splitBlocks, List.append_assoc, List.getElem?_append_right (by simp), length_columns,
    Nat.add_sub_cancel_left, List.getElem?_append_left (by simpa using hk)]
  simp [hk, Nat.add_sub_cancel' long]

/-- The codewords from the ECC of the blocks. -/
theorem LayoutFits.getElem?_interleave_ecc {i j : Nat} (hi : i < l.ecclen) (hj : j < l.nblk) :
    (interleave l (splitBlocks l data))[data.length + i * l.nblk + j]? = some ((blockEcc l data j).getD i 0) := by
  have before : l.shortData * l.nblk + (l.nblk - l.nshort) = data.length := h.ndc_eq.symm
  rw [h.interleave_splitBlocks, List.getElem?_append_right (by simp [before, Nat.add_assoc])]
  simp only [List.length_append, length_columns, List.length_map, List.length_range, before, Nat.add_assoc,
    Nat.add_sub_cancel_left]
  exact getElem?_columns _ hi hj

end Codewords

end Sys2Proof.Machine
end

section
/-! PROOF. CONFIG and ECC_INTERLEAVE (R176 to R180). -/
namespace Sys2Proof.Machine

/-! ### CONFIG (R176) -/

theorem exec_config {v : Nat} (pos : 1 ≤ v) (le : v ≤ 40) (e : Ecl) (s : State) :
    exec (.config v e) s = complete (configure v e s) :=
  if_neg (by omega)

/-- Settles O22: the registers are those of `Configured`, and the tables of R172 let the subtractions of NDC and NSHORT be
read as sums. -/
theorem configStartsSymbol : Obligations.ConfigStartsSymbol := by
  unfold Obligations.ConfigStartsSymbol
  intro s v e pos le
  have version : (configure v e s).version.toNat = v := Nat.mod_eq_of_lt (by omega)
  have regs := configured_configure pos le e s
  obtain ⟨-, -, size, nrc, nblk, ecclen, -, -, -⟩ := configured_configure pos le e s
  rw [version] at size nrc nblk ecclen
  refine ⟨_, exec_config pos le e s, version, rfl, size, nrc, nblk, ecclen, regs.ndc_add, regs.nshort_add,
    regs.sblen_eq_div, fun x y => ⟨Grid.get_clear x y, Grid.get_clear x y⟩, ?cleared, ?frame,
    fun _ => Vector.getElem_replicate _, rfl⟩
  case cleared =>
    intro k hk
    refine (Memory.read_store_in (Nat.le_add_right _ _) (by simpa using hk) (inArray_cw hk) _).trans ?_
    simp
  case frame =>
    intro off out
    have outside : ¬(cwBase ≤ off ∧ off < cwBase + Config.cwArrayBytes) := of_decide_eq_false out
    exact Memory.read_store_out (by rw [List.length_replicate]; omega) _

/-- A store over what an earlier store of as many bytes left. -/
theorem Memory.store_store {bs bs' : List Byte} (h : bs.length = bs'.length) (m : Memory) (off : Nat) :
    (m.store off bs).store off bs' = m.store off bs' := by
  have below : (cellsAt off bs).filter (fun c => decide (c.1 < off)) = [] := List.filter_eq_nil_iff.2 fun c hc => by
    obtain ⟨lo, -, -⟩ := mem_cellsAt hc
    simpa using lo
  have above : (cellsAt off bs).filter (fun c => decide (off + bs'.length ≤ c.1)) = [] :=
    List.filter_eq_nil_iff.2 fun c hc => by
      obtain ⟨-, hi, -⟩ := mem_cellsAt hc
      simpa [← h] using hi
  have apart : ∀ c : Host.Cell, (decide (c.1 < off) && decide (off + bs'.length ≤ c.1)) = false := fun c => by
    simp
    omega
  have apart' : ∀ c : Host.Cell, (decide (off + bs'.length ≤ c.1) && decide (c.1 < off)) = false := fun c =>
    (Bool.and_comm _ _).trans (apart c)
  simp [store, List.filter_append, List.filter_filter, h, below, above, apart, apart']

/-- CONFIG reads of the state it starts from no register it writes, and clears the same bytes of CW (R176). -/
theorem configure_configure (v v' : Nat) (e e' : Ecl) (s : State) :
    configure v' e' (configure v e s) = configure v' e' s := by
  simp [configure, Memory.store_store]

/-- Settles O23: the first CONFIG completed, and the second overwrites all that it wrote. -/
theorem secondConfigWins : Obligations.SecondConfigWins := by
  unfold Obligations.SecondConfigWins
  intro s t v v' e e' first ok pos le
  obtain ⟨err, hne, -, rfl⟩ | ⟨u, hc, rfl⟩ := exec_next first
  · exact absurd ok hne
  · cases hc
    rw [exec_config pos le, exec_config pos le, ← configure_configure v v' e e' s]
    rfl

/-! ### ECC_INTERLEAVE (R180) -/

theorem exec_eccInterleave {s : State} {data : List Byte} (phase : s.phase = .fixed) (length : s.dataLen = s.ndc)
    (written : s.dataBytes 0 s.ndc.toNat = some data) :
    exec .eccInterleave s = complete { eccBody data s with phase := .ecc } := by
  simp only [exec, execEccInterleave, if_pos phase, withDataCodewords, lengthError_eq_none.2 length, written]

section Arrays
variable {s : State} {data : List Byte} (h : LayoutFits s.layout data.length s.nrc.toNat)
include h

/-- The arrays after ECC_INTERLEAVE: the stream fills CW[0..NRC−1], then DIV and REM are written. -/
theorem mem_eccBody : (eccBody data s).mem =
    ((s.mem.store cwBase (interleave s.layout (splitBlocks s.layout data))).store divBase
      (pad256 (divisor s.ecclen.toNat))).store remBase (pad256 (blockEcc s.layout data (s.layout.nblk - 1))) := by
  rw [← h.lastEcc_splitBlocks]
  simp only [eccBody, List.take_of_length_le h.length_interleave.le]
  rfl

theorem read_eccBody_cw (hs : s.nrc.toNat ≤ 3708) {k : Nat} {b : Byte}
    (hk : (interleave s.layout (splitBlocks s.layout data))[k]? = some b) :
    (eccBody data s).mem.read (cwBase + k) = some b := by
  obtain ⟨hdiv, hrem, -, hcw⟩ := bases_eq
  obtain ⟨inside, -⟩ := List.getElem?_eq_some_iff.1 hk
  have lt : k < 3708 := by rw [h.length_interleave] at inside; omega
  rw [mem_eccBody h, read_store_pad256_outside (by omega), read_store_pad256_outside (by omega),
    Memory.read_store_in (Nat.le_add_right _ _) (by omega) (inArray_cw lt), Nat.add_sub_cancel_left,
    List.getD_eq_getElem?_getD, hk, Option.getD_some]

theorem read_eccBody_div {j : Nat} (hj : j < 256) :
    (eccBody data s).mem.read (divBase + j) = some ((divisor s.ecclen.toNat).getD j 0) := by
  obtain ⟨hdiv, hrem, -, -⟩ := bases_eq
  rw [mem_eccBody h, read_store_pad256_outside (by omega), read_store_pad256 (inArray_div hj) hj]

theorem bytes_eccBody_div : (eccBody data s).mem.bytes divBase s.ecclen.toNat = divisor s.ecclen.toNat := by
  have hecc : s.ecclen.toNat < 32 := s.ecclen.isLt
  refine List.ext_getElem (by simp) fun j _ hj => ?_
  have lt : j < 256 := by rw [length_divisor] at hj; omega
  simp [Memory.bytes, read_eccBody_div h lt, List.getElem?_eq_getElem hj]

theorem read_eccBody_rem {j : Nat} (hj : j < 256) :
    (eccBody data s).mem.read (remBase + j) = some ((blockEcc s.layout data (s.layout.nblk - 1)).getD j 0) := by
  rw [mem_eccBody h, read_store_pad256 (inArray_rem hj) hj]

theorem read_eccBody_outside {a : Nat} (div : inDiv a = false) (rem : inRem a = false)
    (cw : a < cwBase ∨ cwBase + s.nrc.toNat ≤ a) : (eccBody data s).mem.read a = s.mem.read a := by
  rw [mem_eccBody h, read_store_pad256_outside (of_decide_eq_false rem), read_store_pad256_outside (of_decide_eq_false div),
    Memory.read_store_out (by rwa [h.length_interleave])]

end Arrays

/-- Settles O24: the stream is three runs of columns, one for each clause on CW, and DIV and REM lie outside CW. -/
theorem eccInterleaveFillsCodewords : Obligations.EccInterleaveFillsCodewords := by
  unfold Obligations.EccInterleaveFillsCodewords
  intro s data configured phase length written
  have count : data.length = s.ndc.toNat := (Memory.readBytes_eq_some.1 written).1
  have fits : LayoutFits s.layout data.length s.nrc.toNat := count ▸ configured.layoutFits
  have codeword := fun {k b} => read_eccBody_cw fits configured.nrc_le (k := k) (b := b)
  have hecc : s.ecclen.toNat < 32 := s.ecclen.isLt
  refine ⟨_, exec_eccInterleave phase length written, fun j hj i hi => codeword (fits.getElem?_interleave_data hi hj),
    fun j long hj => codeword (fits.getElem?_interleave_extra long hj),
    fun j hj i hi => codeword (count ▸ fits.getElem?_interleave_ecc hi hj), ?deg, ?generator, ?above,
    fun j => read_eccBody_rem fits, fun a => read_eccBody_outside fits, rfl⟩
  case deg => exact Nat.mod_eq_of_lt (by omega)
  case generator => exact (congrArg (1 :: ·) (bytes_eccBody_div fits)).trans (cons_divisor configured.ecclen_pos.ne')
  case above =>
    intro j hj lt
    exact (read_eccBody_div fits lt).trans (by rw [List.getD_eq_default _ _ (by simpa using hj)])

end Sys2Proof.Machine
end

section
/-! SUPPORT. What a list of draws leaves in M and F, and which cells the timing and the square patterns write (R201, R203). -/
namespace Sys2Proof.Machine

/-! ### Reading after a list of draws (R200) -/

/-- A cell that no write of `ws` is to keeps its module and its mark. -/
theorem get_drawAll_of_not_covers {ws : List ModuleWrite} {x y : Nat} (h : ¬Covers ws x y) (c : Canvas) :
    (drawAll ws c).m.get x y = c.m.get x y ∧ (drawAll ws c).f.get x y = c.f.get x y := by
  have miss : ∀ w ∈ ws, w.hits x y = false := fun w hw => Bool.eq_false_iff.2 fun hit => h (covers_of_hits hw hit)
  have none_hits : ws.any (·.hits x y) = false := by simpa using miss
  exact ⟨drawAll_m_of_not_hit miss c, by rw [drawAll_f, none_hits, Bool.or_false]⟩

/-- A cell that `ws` writes, with `d` every time, holds `d` and is marked. -/
theorem get_drawAll_of_covers {ws : List ModuleWrite} {x y : Nat} {d : Bool} (inside : WritesInside 177 ws)
    (h : Covers ws x y) (same : ∀ w ∈ ws, w.x = x → w.y = y → w.d = d) (c : Canvas) :
    (drawAll ws c).m.get x y = d ∧ (drawAll ws c).f.get x y = true := by
  refine ⟨drawAll_m_of_hit ?_ (fun w hw hit => ?_) c, (drawAll_f_iff inside c x y).2 (.inr h)⟩
  · obtain ⟨w, hw, rfl, rfl⟩ := h
    exact ⟨w, hw, decide_eq_true ⟨rfl, rfl, inside w hw⟩⟩
  · obtain ⟨hx, hy, -⟩ := of_decide_eq_true hit
    exact same w hw hx.symm hy.symm

section
variable {ws : List ModuleWrite} {P : Nat → Nat → Prop} (inside : WritesInside 177 ws)
  (cells : ∀ x y, Covers ws x y ↔ P x y)
include inside cells

/-- Draws that write exactly the cells of `P` mark those, and leave all others as they are. -/
theorem drawAll_marks (c : Canvas) : (∀ x y, P x y → (drawAll ws c).f.get x y = true) ∧
    ∀ x y, ¬P x y → (drawAll ws c).m.get x y = c.m.get x y ∧ (drawAll ws c).f.get x y = c.f.get x y :=
  ⟨fun x y h => (drawAll_f_iff inside c x y).2 (.inr ((cells x y).2 h)),
    fun x y h => get_drawAll_of_not_covers (mt (cells x y).1 h) c⟩

/-- M and F after draws that write exactly the cells of `P`, each time in the colour that `dark` gives the cell. -/
theorem get_drawAll_ite [∀ x y, Decidable (P x y)] (dark : Nat → Nat → Bool) (same : ∀ w ∈ ws, w.d = dark w.x w.y)
    (c : Canvas) :
    (∀ x y, (drawAll ws c).m.get x y = if P x y then dark x y else c.m.get x y) ∧
      ∀ x y, (drawAll ws c).f.get x y = if P x y then true else c.f.get x y := by
  have cell : ∀ x y, (drawAll ws c).m.get x y = (if P x y then dark x y else c.m.get x y) ∧
      (drawAll ws c).f.get x y = (if P x y then true else c.f.get x y) := fun x y => by
    by_cases h : P x y
    · simpa only [if_pos h] using
        get_drawAll_of_covers inside ((cells x y).2 h) (fun w hw hx hy => hx ▸ hy ▸ same w hw) c
    · simpa only [if_neg h] using get_drawAll_of_not_covers (mt (cells x y).1 h) c
  exact ⟨fun x y => (cell x y).1, fun x y => (cell x y).2⟩

end

/-! ### The timing lines (R201) -/

theorem covers_timingWrites (size x y : Nat) :
    Covers (timingWrites size) x y ↔ (x = 6 ∧ y < size) ∨ (y = 6 ∧ x < size) := by
  simp only [Covers, timingWrites, List.mem_flatMap, List.mem_range, List.mem_pair]
  constructor
  · rintro ⟨_, ⟨i, hi, rfl | rfl⟩, rfl, rfl⟩
    · exact .inl ⟨rfl, hi⟩
    · exact .inr ⟨rfl, hi⟩
  · rintro (⟨rfl, hy⟩ | ⟨rfl, hx⟩)
    · exact ⟨_, ⟨y, hy, .inl rfl⟩, rfl, rfl⟩
    · exact ⟨_, ⟨x, hx, .inr rfl⟩, rfl, rfl⟩

/-- Both lines have index and sum of coordinates of one parity, so they agree where they cross. -/
theorem dark_of_mem_timingWrites {size : Nat} {w : ModuleWrite} (h : w ∈ timingWrites size) :
    w.d = ((w.x + w.y) % 2 == 0) := by
  obtain ⟨i, -, h⟩ := List.mem_flatMap.1 h
  rcases List.mem_pair.1 h with rfl | rfl
  · rw [show (6 + i) % 2 = i % 2 by omega]
  · rw [show (i + 6) % 2 = i % 2 by omega]

/-! ### Square patterns (R203) -/

theorem mem_offsets {r : Nat} {d : Int} : d ∈ offsets r ↔ d.natAbs ≤ r := by
  simp only [offsets, List.mem_map, List.mem_range]
  constructor
  · rintro ⟨k, hk, rfl⟩
    omega
  · exact fun h => ⟨(d + r).toNat, by omega, by omega⟩

/-- A square pattern writes the cells of the symbol at distance up to `r` from its centre, coloured by distance (R203). -/
theorem mem_squareWrites {size r : Nat} {dark : Nat → Bool} {cx cy : Nat} {w : ModuleWrite} :
    w ∈ squareWrites size r dark cx cy ↔
      w.x < size ∧ w.y < size ∧ cellDistance w.x w.y cx cy ≤ r ∧ w.d = dark (cellDistance w.x w.y cx cy) := by
  simp only [squareWrites, List.mem_flatMap, List.mem_filterMap, mem_offsets, Option.ite_none_right_eq_some,
    Option.some.injEq]
  constructor
  · rintro ⟨dy, hdy, dx, hdx, inside, rfl⟩
    have distance : cellDistance (cx + dx).toNat (cy + dy).toNat cx cy = chebyshev dx dy := by
      rw [cellDistance, chebyshev, Int.toNat_of_nonneg inside.1, Int.toNat_of_nonneg inside.2.2.1]
      congr 2 <;> omega
    refine ⟨by simp only; omega, by simp only; omega, ?_, congrArg dark distance.symm⟩
    exact distance.trans_le (max_le hdx hdy)
  · rintro ⟨hx, hy, near, dark_eq⟩
    obtain ⟨hdx, hdy⟩ := max_le_iff.1 near
    refine ⟨(w.y : Int) - cy, hdy, (w.x : Int) - cx, hdx, by omega, ?_⟩
    rw [show dark (chebyshev (w.x - cx) (w.y - cy)) = w.d from dark_eq.symm]
    simp

/-! ### The finders (R204) -/

/-- From size 21 up no cell is within 4 of two finder centres. -/
theorem finderDistance_of_near {size x y : Nat} (lo : 21 ≤ size) :
    (cellDistance x y 3 3 ≤ 4 → finderDistance size x y = cellDistance x y 3 3) ∧
    (cellDistance x y (size - 4) 3 ≤ 4 → finderDistance size x y = cellDistance x y (size - 4) 3) ∧
    (cellDistance x y 3 (size - 4) ≤ 4 → finderDistance size x y = cellDistance x y 3 (size - 4)) := by
  simp only [finderDistance, cellDistance]
  omega

theorem mem_findersWrites {size : Nat} (lo : 21 ≤ size) {w : ModuleWrite} : w ∈ findersWrites size ↔
    w.x < size ∧ w.y < size ∧ finderDistance size w.x w.y ≤ 4 ∧
      w.d = decide (finderDistance size w.x w.y ≠ 2 ∧ finderDistance size w.x w.y ≠ 4) := by
  have finder : ∀ {cx cy : Nat}, w ∈ finderWrites size cx cy ↔ w.x < size ∧ w.y < size ∧
      cellDistance w.x w.y cx cy ≤ 4 ∧
        w.d = decide (cellDistance w.x w.y cx cy ≠ 2 ∧ cellDistance w.x w.y cx cy ≠ 4) := fun {cx cy} => by
    rw [finderWrites, mem_squareWrites]
    simp [bne, Bool.beq_eq_decide_eq]
  have centre : (size : Int) - 4 = (size - 4 : Nat) := by omega
  have three : (3 : Int) = (3 : Nat) := rfl
  obtain ⟨first, second, third⟩ := finderDistance_of_near (x := w.x) (y := w.y) lo
  rw [findersWrites, centre, three, List.mem_append, List.mem_append, finder, finder, finder]
  constructor
  · rintro ((⟨hx, hy, near, hd⟩ | ⟨hx, hy, near, hd⟩) | ⟨hx, hy, near, hd⟩)
    · exact first near ▸ ⟨hx, hy, near, hd⟩
    · exact second near ▸ ⟨hx, hy, near, hd⟩
    · exact third near ▸ ⟨hx, hy, near, hd⟩
  · rintro ⟨hx, hy, near, hd⟩
    obtain h | h | h := (by simpa only [finderDistance, min_le_iff] using near :
      cellDistance w.x w.y 3 3 ≤ 4 ∨ cellDistance w.x w.y (size - 4) 3 ≤ 4 ∨ cellDistance w.x w.y 3 (size - 4) ≤ 4)
    · exact .inl (.inl ⟨hx, hy, h, first h ▸ hd⟩)
    · exact .inl (.inr ⟨hx, hy, h, second h ▸ hd⟩)
    · exact .inr ⟨hx, hy, h, third h ▸ hd⟩

theorem covers_findersWrites {size : Nat} (lo : 21 ≤ size) (x y : Nat) :
    Covers (findersWrites size) x y ↔ x < size ∧ y < size ∧ finderDistance size x y ≤ 4 := by
  constructor
  · rintro ⟨w, hw, rfl, rfl⟩
    obtain ⟨hx, hy, near, -⟩ := (mem_findersWrites lo).1 hw
    exact ⟨hx, hy, near⟩
  · rintro ⟨hx, hy, near⟩
    exact ⟨⟨x, y, decide (finderDistance size x y ≠ 2 ∧ finderDistance size x y ≠ 4)⟩,
      (mem_findersWrites lo).2 ⟨hx, hy, near, rfl⟩, rfl, rfl⟩

end Sys2Proof.Machine
end

section
/-! SUPPORT. The alignment positions by index and the cells of the alignment patterns (R205 to R207). -/
namespace Sys2Proof.Machine

/-! ### The positions (R205) -/

/-- Position `k` of R205, counted from the left: 6, and from index 1 on multiples of the step back from SIZE − 7. -/
def alignCoord (v k : Nat) : Nat := if k = 0 then 6 else symbolSize v - 7 - (v / 7 + 1 - k) * alignStep v

/-- The loop of R205 lays its `n` positions before the ones already there, `step` apart and ending at `pos`. -/
theorem alignLoop_eq (step n pos : Nat) (acc : List Nat) :
    alignLoop step n pos acc = 6 :: ((List.range n).map fun k => pos - (n - (k + 1)) * step) ++ acc := by
  induction n generalizing pos acc with
  | zero => rfl
  | succ n ih =>
    have shift : ∀ k ∈ List.range n, pos - step - (n - (k + 1)) * step = pos - (n + 1 - (k + 1)) * step := fun k hk => by
      have := List.mem_range.1 hk
      rw [Nat.sub_sub, show n + 1 - (k + 1) = n - (k + 1) + 1 by omega, Nat.add_one_mul, Nat.add_comm step]
    rw [alignLoop, ih, List.map_congr_left shift, List.range_succ, List.map_append]
    simp

/-- The positions are the `v div 7 + 2` values of `alignCoord` in order. -/
theorem alignPos_eq {v : Nat} (hv : 2 ≤ v) : alignPos v = (List.range (v / 7 + 2)).map (alignCoord v) := by
  rw [alignPos, if_neg (by omega), alignLoop_eq, List.range_succ_eq_map (n := v / 7 + 1)]
  simp [alignCoord, Function.comp_def]

/-- The table behind R205: the step is at least 12, and the steps back from SIZE − 7 end at 18 or further right. -/
theorem alignStep_fits {v : Nat} (hv : 2 ≤ v) (le : v ≤ 40) :
    12 ≤ alignStep v ∧ 18 + v / 7 * alignStep v ≤ symbolSize v - 7 := by
  have table : ∀ v < 41, 2 ≤ v → 12 ≤ alignStep v ∧ 18 + v / 7 * alignStep v ≤ symbolSize v - 7 := by decide
  exact table v (by omega) hv

@[simp] theorem alignCoord_zero (v : Nat) : alignCoord v 0 = 6 := rfl

@[simp] theorem alignCoord_last (v : Nat) : alignCoord v (v / 7 + 1) = symbolSize v - 7 := by simp [alignCoord]

/-- From index 1 on a position lies a whole number of steps before SIZE − 7. -/
theorem alignCoord_add_steps {v k : Nat} (hv : 2 ≤ v) (le : v ≤ 40) (hk : 1 ≤ k) :
    alignCoord v k + (v / 7 + 1 - k) * alignStep v = symbolSize v - 7 := by
  have steps : (v / 7 + 1 - k) * alignStep v ≤ v / 7 * alignStep v := Nat.mul_le_mul_right _ (by omega)
  have := alignStep_fits hv le
  rw [alignCoord, if_neg (by omega)]
  omega

theorem alignCoord_succ {v k : Nat} (hv : 2 ≤ v) (le : v ≤ 40) (hk : 1 ≤ k) (lt : k < v / 7 + 1) :
    alignCoord v (k + 1) = alignCoord v k + alignStep v := by
  have here := alignCoord_add_steps hv le hk
  have next := alignCoord_add_steps (k := k + 1) hv le (by omega)
  rw [show v / 7 + 1 - k = v / 7 + 1 - (k + 1) + 1 by omega, Nat.add_one_mul] at here
  omega

theorem alignCoord_add_twelve_le_succ {v k : Nat} (hv : 2 ≤ v) (le : v ≤ 40) (lt : k < v / 7 + 1) :
    alignCoord v k + 12 ≤ alignCoord v (k + 1) := by
  obtain ⟨step, room⟩ := alignStep_fits hv le
  cases k with
  | zero =>
    have := alignCoord_add_steps (k := 1) hv le (by omega)
    rw [Nat.add_sub_cancel] at this
    simp only [alignCoord_zero, Nat.zero_add]
    omega
  | succ k =>
    have := alignCoord_succ hv le (Nat.le_add_left 1 k) lt
    omega

/-- Any two positions are at least 12 apart. -/
theorem alignCoord_add_twelve_le {v i j : Nat} (hv : 2 ≤ v) (le : v ≤ 40) (hij : i < j) (hj : j ≤ v / 7 + 1) :
    alignCoord v i + 12 ≤ alignCoord v j := by
  induction j, hij using Nat.le_induction with
  | base => exact alignCoord_add_twelve_le_succ hv le hj
  | succ j _ ih =>
    have := alignCoord_add_twelve_le_succ hv le hj
    have := ih (by omega)
    omega

/-- Positions less than 12 apart have one index. -/
theorem alignCoord_index_eq {v i j : Nat} (hv : 2 ≤ v) (le : v ≤ 40) (hi : i < v / 7 + 2) (hj : j < v / 7 + 2)
    (lo : alignCoord v i < alignCoord v j + 12) (hi' : alignCoord v j < alignCoord v i + 12) : i = j := by
  rcases Nat.lt_trichotomy i j with h | h | h
  · have := alignCoord_add_twelve_le hv le h (by omega)
    omega
  · exact h
  · have := alignCoord_add_twelve_le hv le h (by omega)
    omega

theorem alignCoord_inj {v i j : Nat} (hv : 2 ≤ v) (le : v ≤ 40) (hi : i < v / 7 + 2) (hj : j < v / 7 + 2) :
    alignCoord v i = alignCoord v j ↔ i = j :=
  ⟨fun h => alignCoord_index_eq hv le hi hj (by omega) (by omega), congrArg _⟩

theorem two_le_of_mem_alignPos {v c : Nat} (h : c ∈ alignPos v) : 2 ≤ v := by
  by_contra hv
  simp [alignPos, Nat.not_le.1 hv] at h

theorem mem_alignPos {v c : Nat} (hv : 2 ≤ v) : c ∈ alignPos v ↔ ∃ k < v / 7 + 2, alignCoord v k = c := by
  simp [alignPos_eq hv]

/-! ### The centres (R207) -/

/-- The loop of R207 draws at the centres of `isAlignCentre`: index 0 holds 6, and the last index SIZE − 7. -/
theorem mem_alignCentres {v cx cy : Nat} (le : v ≤ 40) : (cx, cy) ∈ alignCentres v ↔ isAlignCentre v cx cy := by
  by_cases hv : 2 ≤ v
  · have position : ∀ c k, (c, k) ∈ (alignPos v).zipIdx ↔ k < v / 7 + 2 ∧ alignCoord v k = c := fun c k => by
      simp [List.mem_zipIdx_iff_getElem?, alignPos_eq hv, List.getElem?_eq_some_iff, -List.getElem?_map]
    have length : (alignPos v).length - 1 = v / 7 + 1 := by simp [alignPos_eq hv]
    have first : ∀ {k}, k < v / 7 + 2 → (alignCoord v k = 6 ↔ k = 0) := fun hk => by
      rw [← alignCoord_zero v, alignCoord_inj hv le hk (by omega)]
    have last : ∀ {k}, k < v / 7 + 2 → (alignCoord v k = symbolSize v - 7 ↔ k = v / 7 + 1) := fun hk => by
      rw [← alignCoord_last v, alignCoord_inj hv le hk (by omega)]
    simp only [alignCentres, isAlignCentre, mem_alignPos hv, List.mem_flatMap, List.mem_filterMap, Prod.exists, position,
      length, Option.ite_none_left_eq_some, Option.some.injEq, Prod.mk.injEq]
    constructor
    · rintro ⟨_, i, ⟨hi, rfl⟩, _, j, ⟨hj, rfl⟩, corner, rfl, rfl⟩
      refine ⟨⟨i, hi, rfl⟩, ⟨j, hj, rfl⟩, ?_⟩
      simpa only [first hi, first hj, last hi, last hj, not_or] using corner
    · rintro ⟨⟨i, hi, rfl⟩, ⟨j, hj, rfl⟩, corner⟩
      refine ⟨_, i, ⟨hi, rfl⟩, _, j, ⟨hj, rfl⟩, ?_, rfl, rfl⟩
      simpa only [first hi, first hj, last hi, last hj, not_or] using corner
  · have : alignPos v = [] := List.eq_nil_iff_forall_not_mem.2 fun c hc => hv (two_le_of_mem_alignPos hc)
    simp [alignCentres, isAlignCentre, this]

/-- An alignment coordinate leaves room for the pattern of radius 2 on both sides. -/
theorem alignPos_bounds {v c : Nat} (le : v ≤ 40) (h : c ∈ alignPos v) : 6 ≤ c ∧ c + 7 ≤ symbolSize v := by
  have hv := two_le_of_mem_alignPos h
  obtain ⟨k, hk, rfl⟩ := (mem_alignPos hv).1 h
  have room := alignStep_fits hv le
  cases k with
  | zero =>
    rw [alignCoord_zero]
    omega
  | succ k =>
    have := alignCoord_add_steps hv le (Nat.le_add_left 1 k)
    have := alignCoord_add_twelve_le hv le (show 0 < k + 1 by omega) (by omega)
    rw [alignCoord_zero] at this
    omega

theorem alignPos_eq_of_near {v a b : Nat} (le : v ≤ 40) (ha : a ∈ alignPos v) (hb : b ∈ alignPos v) (lo : a < b + 12)
    (hi : b < a + 12) : a = b := by
  have hv := two_le_of_mem_alignPos ha
  obtain ⟨i, hlt, rfl⟩ := (mem_alignPos hv).1 ha
  obtain ⟨j, hlt', rfl⟩ := (mem_alignPos hv).1 hb
  rw [alignCoord_index_eq hv le hlt hlt' lo hi]

/-- The patterns do not overlap: a cell is within 2 of one centre at most. -/
theorem isAlignCentre_unique {v x y cx cy cx' cy' : Nat} (le : v ≤ 40) (h : isAlignCentre v cx cy)
    (h' : isAlignCentre v cx' cy') (near : cellDistance x y cx cy ≤ 2) (near' : cellDistance x y cx' cy' ≤ 2) :
    cx = cx' ∧ cy = cy' := by
  obtain ⟨hx, hy, -⟩ := h
  obtain ⟨hx', hy', -⟩ := h'
  obtain ⟨_, _⟩ := max_le_iff.1 near
  obtain ⟨_, _⟩ := max_le_iff.1 near'
  exact ⟨alignPos_eq_of_near le hx hx' (by omega) (by omega), alignPos_eq_of_near le hy hy' (by omega) (by omega)⟩

/-! ### The patterns (R206) -/

/-- No pattern is clipped by the symbol. -/
theorem mem_alignmentsWrites {v : Nat} (le : v ≤ 40) {w : ModuleWrite} : w ∈ alignmentsWrites (symbolSize v) v ↔
    ∃ cx cy, isAlignCentre v cx cy ∧ cellDistance w.x w.y cx cy ≤ 2 ∧
      w.d = decide (cellDistance w.x w.y cx cy ≠ 1) := by
  simp only [alignmentsWrites, alignmentWrites, List.mem_flatMap, Prod.exists, mem_alignCentres le, mem_squareWrites]
  refine exists_congr fun cx => exists_congr fun cy => and_congr_right fun ⟨hx, hy, _⟩ => ?_
  have inside : cellDistance w.x w.y cx cy ≤ 2 → w.x < symbolSize v ∧ w.y < symbolSize v := fun near => by
    have := alignPos_bounds le hx
    have := alignPos_bounds le hy
    obtain ⟨_, _⟩ := max_le_iff.1 near
    omega
  simp only [bne, Bool.beq_eq_decide_eq, decide_not]
  exact ⟨fun ⟨_, _, near, hd⟩ => ⟨near, hd⟩, fun ⟨near, hd⟩ => ⟨(inside near).1, (inside near).2, near, hd⟩⟩

theorem covers_alignmentsWrites {v : Nat} (le : v ≤ 40) (x y : Nat) :
    Covers (alignmentsWrites (symbolSize v) v) x y ↔ ∃ cx cy, isAlignCentre v cx cy ∧ cellDistance x y cx cy ≤ 2 := by
  constructor
  · rintro ⟨w, hw, rfl, rfl⟩
    obtain ⟨cx, cy, centre, near, -⟩ := (mem_alignmentsWrites le).1 hw
    exact ⟨cx, cy, centre, near⟩
  · rintro ⟨cx, cy, centre, near⟩
    exact ⟨⟨x, y, decide (cellDistance x y cx cy ≠ 1)⟩, (mem_alignmentsWrites le).2 ⟨cx, cy, centre, near, rfl⟩, rfl, rfl⟩

end Sys2Proof.Machine
end

section
/-! PROOF. The function patterns (42_function_patterns.md). -/
namespace Sys2Proof.Machine

/-! ### The commands where they complete (R202 to R214) -/

theorem exec_drawTiming {s : State} (phase : s.phase = .configured) (done : s.funcDone = 0b00000) :
    exec .drawTiming s = complete { drawTiming s with funcDone := 0b00001 } :=
  (if_pos (State.drawsDone_iff.2 ⟨phase, done⟩)).trans (by simp [State.setDrawDone, drawTiming_eq, done])

theorem exec_drawFinders {s : State} (phase : s.phase = .configured) (done : s.funcDone = 0b00001) :
    exec .drawFinders s = complete { drawFinders s with funcDone := 0b00011 } :=
  (if_pos (State.drawsDone_iff.2 ⟨phase, done⟩)).trans (by simp [State.setDrawDone, drawFinders_eq, done])

theorem exec_drawAlignment {s : State} (phase : s.phase = .configured) (done : s.funcDone = 0b00011) :
    exec .drawAlignment s = complete { drawAlignments s with funcDone := 0b00111 } :=
  (if_pos (State.drawsDone_iff.2 ⟨phase, done⟩)).trans (by simp [State.setDrawDone, drawAlignments_eq, done])

theorem exec_drawFormat {s : State} {m : Int} {k : Fin 8} (legal : s.formatLegal = true) (range : maskIndex m = some k) :
    exec (.drawFormat m) s =
      complete { drawFormat k s with funcDone := if s.phase = .configured then 0b01111 else s.funcDone } := by
  simp only [exec, execDrawFormat, if_pos legal, range]
  by_cases phase : s.phase = .configured
  · have done : s.funcDone = 0b00111 := by simpa [State.formatLegal, State.drawsDone, phase] using legal
    simp [State.setDrawDone, drawFormat_eq, phase, done]
  · simp [drawFormat_eq, phase]

theorem exec_drawVersion {s : State} (phase : s.phase = .configured) (done : s.funcDone = 0b01111) :
    exec .drawVersion s = complete { drawVersion s with funcDone := 0b11111, phase := .fixed } :=
  (if_pos (State.drawsDone_iff.2 ⟨phase, done⟩)).trans (by simp [State.setDrawDone, drawVersion_eq, done])

theorem exec_drawFunctionPatterns {s : State} (phase : s.phase = .configured) (done : s.funcDone = 0b00000) :
    exec .drawFunctionPatterns s = complete { drawFunctionPatterns s with funcDone := 0b11111, phase := .fixed } :=
  if_pos (State.drawsDone_iff.2 ⟨phase, done⟩)

/-! ### Timing, finders and alignment (R201 to R207) -/

/-- Settles O25: the two lines are the cells written, each coloured by the parity of its coordinates. -/
theorem drawTimingAlternates : Obligations.DrawTimingAlternates := by
  unfold Obligations.DrawTimingAlternates
  intro s phase done hi
  have inside : WritesInside 177 (timingWrites s.size.toNat) := fun w hw => by
    have := (covers_timingWrites s.size.toNat w.x w.y).1 ⟨w, hw, rfl, rfl⟩
    omega
  obtain ⟨modules, marks⟩ := get_drawAll_ite inside (covers_timingWrites s.size.toNat) (fun x y => (x + y) % 2 == 0)
    (fun _ => dark_of_mem_timingWrites) s.canvas
  exact ⟨_, exec_drawTiming phase done, modules, marks, rfl⟩

/-- Settles O26: the cells written are those within 4 of a finder centre, and no cell is within 4 of two. -/
theorem drawFindersAtThreeCorners : Obligations.DrawFindersAtThreeCorners := by
  unfold Obligations.DrawFindersAtThreeCorners
  intro s phase done lo hi
  obtain ⟨modules, marks⟩ := get_drawAll_ite ((writesInside_finders s.size.toNat).mono hi) (covers_findersWrites lo)
    (fun x y => decide (finderDistance s.size.toNat x y ≠ 2 ∧ finderDistance s.size.toNat x y ≠ 4))
    (fun _ hw => have ⟨_, _, _, dark⟩ := (mem_findersWrites lo).1 hw; dark) s.canvas
  exact ⟨_, exec_drawFinders phase done, modules, marks, rfl⟩

/-- Settles O27: the patterns lie inside the symbol and apart from one another, so each cell near a centre is coloured by
that centre alone. -/
theorem drawAlignmentAtCentres : Obligations.DrawAlignmentAtCentres := by
  unfold Obligations.DrawAlignmentAtCentres
  intro s configured phase done
  have le := configured.version_le
  have inside := (writesInside_alignments s.size.toNat s.version.toNat).mono configured.size_bounds.2
  have cells := covers_alignmentsWrites le
  refine ⟨_, exec_drawAlignment phase done, ?near, ?far, rfl⟩
  case near =>
    intro cx cy centre x y near
    refine get_drawAll_of_covers inside ?_ ?_ s.canvas
    · rw [configured.size_eq, cells]
      exact ⟨cx, cy, centre, near⟩
    · rintro w hw rfl rfl
      rw [configured.size_eq, mem_alignmentsWrites le] at hw
      obtain ⟨cx', cy', centre', near', hd⟩ := hw
      obtain ⟨rfl, rfl⟩ := isAlignCentre_unique le centre centre' near near'
      exact hd
  case far =>
    intro x y far
    refine get_drawAll_of_not_covers ?_ s.canvas
    rw [configured.size_eq, cells]
    rintro ⟨cx, cy, centre, near⟩
    exact (far cx cy centre).not_ge near

/-- Settles O28: by `alignPos_eq` the positions are those of `alignCoord`, of which each part is known by index. -/
theorem alignmentPositionsAreSpaced : Obligations.AlignmentPositionsAreSpaced := by
  unfold Obligations.AlignmentPositionsAreSpaced
  refine ⟨rfl, fun v hv le => ?_⟩
  have position : ∀ k < v / 7 + 2, (alignPos v).getD k 0 = alignCoord v k := fun k hk => by
    simp [alignPos_eq hv, hk]
  refine ⟨?length, ?head, ?last, ?equal, ?apart⟩
  case length => simp [alignPos_eq hv]
  case head => simp [alignPos_eq hv, List.range_succ_eq_map]
  case last => simp [alignPos_eq hv, List.range_succ]
  case equal =>
    intro k hk lt
    rw [position k (by omega), position (k + 1) lt, alignCoord_succ hv le hk (by omega)]
  case apart =>
    intro k lt
    rw [position k (by omega), position (k + 1) lt]
    exact alignCoord_add_twelve_le_succ hv le (by omega)

/-! ### Format and version information (R208 to R213) -/

/-- Settles O29: the format cells are distinct, so each holds what is written to it, and they are all that is written. -/
theorem drawFormatPlacesBits : Obligations.DrawFormatPlacesBits := by
  unfold Obligations.DrawFormatPlacesBits
  intro s m legal lo hi
  have inside := (writesInside_format (show 15 ≤ s.size.toNat by omega) (formatBits s.ecl m)).mono hi
  obtain ⟨copies, dark⟩ := get_drawAll_formatWrites lo hi (formatBits s.ecl m) s.canvas
  obtain ⟨marked, others⟩ := drawAll_marks inside (covers_formatWrites s.size.toNat (formatBits s.ecl m)) s.canvas
  exact ⟨_, exec_drawFormat legal (maskIndex_eq_some.2 rfl), copies, dark, marked, others, rfl⟩

/-- Settles O30: a division of each of the 32 format words and 34 version words. -/
theorem formatAndVersionWordsAreCodewords : Obligations.FormatAndVersionWordsAreCodewords := by
  unfold Obligations.FormatAndVersionWordsAreCodewords
  have versions : ∀ v < 41, 7 ≤ v → (versionBits v).toNat >>> 12 = v ∧
      [17, 16, 15, 14, 13, 12].foldl (fun acc k => if acc.testBit k then acc ^^^ (0x1F25 <<< (k - 12)) else acc)
        (versionBits v).toNat = 0 := by decide +kernel
  refine ⟨fun e => ?_, fun v lo hi => versions v (by omega) lo⟩
  cases e <;> decide +kernel

/-- Settles O31: from version 7 on the version cells hold the two copies, and below no cell is one. -/
theorem drawVersionPlacesBits : Obligations.DrawVersionPlacesBits := by
  unfold Obligations.DrawVersionPlacesBits
  intro s configured phase done
  obtain ⟨lo, hi⟩ := configured.size_bounds
  have inside := (writesInside_version (show 11 ≤ s.size.toNat by omega) s.version.toNat).mono hi
  obtain ⟨marked, others⟩ := drawAll_marks inside (covers_versionWrites s.size.toNat s.version.toNat) s.canvas
  exact ⟨_, exec_drawVersion phase done,
    fun hv i lt => get_drawAll_versionWrites hv (configured.size_of_version hv) hi lt s.canvas, marked, others, rfl⟩

/-! ### DRAW_FUNCTION_PATTERNS (R214) -/

/-- Settles O32: each of the five commands completes in the state the one before it leaves, and their draws are those of
`drawFunctionPatterns` in order. -/
theorem functionPatternsAreTheFiveDraws : Obligations.FunctionPatternsAreTheFiveDraws := by
  unfold Obligations.FunctionPatternsAreTheFiveDraws
  intro s phase done
  obtain ⟨r, rfl⟩ : ∃ r : State, s = { r with phase := .configured, funcDone := 0 } := ⟨s, by rw [← phase, ← done]⟩
  refine ⟨_, exec_drawFunctionPatterns rfl rfl, ?_, by simp [drawFunctionPatterns_eq]⟩
  rw [succeeds_cons_of_complete (exec_drawTiming rfl rfl), succeeds_cons_of_complete (exec_drawFinders rfl rfl),
    succeeds_cons_of_complete (exec_drawAlignment rfl rfl), succeeds_cons_of_complete (exec_drawFormat rfl rfl),
    succeeds_cons_of_complete (exec_drawVersion rfl rfl)]
  rfl

end Sys2Proof.Machine
end

section
/-! SUPPORT. The scan of R230 by index, and the grid after the placement of a bit stream (R231, R232). -/
namespace Sys2Proof.Machine

/-- Rows of equal length, read as one list by index. -/
theorem flatMap_range_map {α : Type} (width : Nat) (f : Nat → Nat → α) (n : Nat) :
    ((List.range n).flatMap fun i => (List.range width).map (f i)) =
      (List.range (n * width)).map fun t => f (t / width) (t % width) := by
  induction n with
  | zero => simp
  | succ n ih =>
    have last : ∀ j ∈ List.range width, f n j = f ((n * width + j) / width) ((n * width + j) % width) := fun j hj => by
      have lt := List.mem_range.1 hj
      rw [Nat.mul_comm, Nat.mul_add_div (by omega), Nat.div_eq_of_lt lt, Nat.mul_add_mod, Nat.mod_eq_of_lt lt,
        Nat.add_zero]
    rw [List.range_succ, List.flatMap_append, ih, List.flatMap_singleton, Nat.succ_mul, List.range_add, List.map_append,
      List.map_map, List.map_congr_left last]
    rfl

/-! ### The scan by index (R230) -/

/-- With `n` pairs of columns left the loop gives their right columns, which are those of the symbol that ends there. -/
theorem rightColumns_eq {n fuel : Nat} (h : n ≤ fuel) :
    rightColumns fuel (if 3 ≤ n then 2 * n else 2 * n - 1) = (List.range n).map (pairRight (2 * n + 1)) := by
  induction n generalizing fuel with
  | zero => cases fuel <;> rfl
  | succ n ih =>
    obtain ⟨fuel, rfl⟩ : ∃ k, fuel = k + 1 := ⟨fuel - 1, by omega⟩
    have shift : pairRight (2 * (n + 1) + 1) ∘ Nat.succ = pairRight (2 * n + 1) := funext fun p => by
      rw [Function.comp, pairRight, pairRight, show 2 * (n + 1) + 1 - 1 - 2 * p.succ = 2 * n + 1 - 1 - 2 * p by omega,
        show 2 * (n + 1) + 1 - 2 - 2 * p.succ = 2 * n + 1 - 2 - 2 * p by omega]
    rw [List.range_succ_eq_map, List.map_cons, List.map_map, shift, ← ih (by omega : n ≤ fuel)]
    match n with
    | 0 | 1 | 2 => rfl
    | n + 3 =>
      rw [if_pos (by omega), if_pos (by omega), rightColumns, if_neg (by omega), if_neg (by omega), pairRight,
        if_pos (by omega)]
      rfl

/-- The cell visited at place `t`: pair, row and side are the quotients and remainders of `t` (R230). -/
def scanCell (size t : Nat) : Nat × Nat :=
  (pairRight size (t / (size * 2)) - t % (size * 2) % 2, pairRow size (t / (size * 2)) (t % (size * 2) / 2))

theorem scanCell_index {size k j : Nat} (hk : k < size) (hj : j < 2) (p : Nat) :
    scanCell size (2 * (size * p + k) + j) = (pairRight size p - j, pairRow size p k) := by
  have index : 2 * (size * p + k) + j = size * 2 * p + (2 * k + j) := by ring
  rw [scanCell, index, Nat.mul_add_div (by omega), Nat.mul_add_mod, Nat.mod_eq_of_lt (by omega : 2 * k + j < size * 2),
    Nat.div_eq_of_lt (by omega : 2 * k + j < size * 2), Nat.add_zero, Nat.mul_add_div (by omega), Nat.mul_add_mod,
    Nat.div_eq_of_lt hj, Nat.mod_eq_of_lt hj, Nat.add_zero]

theorem and_two_eq_zero_iff (n : Nat) : n &&& 2 = 0 ↔ n % 4 < 2 := by
  rw [show 2 = 2 ^ 1 from rfl, Nat.and_two_pow, Nat.testBit_eq_decide_div_mod_eq]
  simp only [mul_eq_zero, Bool.toNat_eq_zero, decide_eq_false_iff_not]
  omega

/-- Bit 1 of right + 1 alternates with the pairs, and the first pair runs upward: the size is 1 modulo 4 (R230). -/
theorem pairCells_pairRight {v p : Nat} (hp : p < (symbolSize v - 1) / 2) :
    pairCells (symbolSize v) (pairRight (symbolSize v) p) = (List.range (symbolSize v)).flatMap fun k =>
      (List.range 2).map fun j => (pairRight (symbolSize v) p - j, pairRow (symbolSize v) p k) := by
  have upward : ((pairRight (symbolSize v) p + 1) &&& 2 = 0) ↔ p % 2 = 0 := by
    rw [and_two_eq_zero_iff, pairRight]
    unfold symbolSize at hp ⊢
    split <;> omega
  refine List.flatMap_congr fun k _ => ?_
  simp [pairRow, upward, List.range_succ]

theorem scan_eq (v : Nat) : scan (symbolSize v) =
    (List.range ((symbolSize v - 1) / 2 * (symbolSize v * 2))).map (scanCell (symbolSize v)) := by
  have columns : rightColumns (symbolSize v) (symbolSize v - 1) =
      (List.range ((symbolSize v - 1) / 2)).map (pairRight (symbolSize v)) := by
    have h := rightColumns_eq (show (symbolSize v - 1) / 2 ≤ symbolSize v by omega)
    rwa [if_pos (by unfold symbolSize; omega),
      show 2 * ((symbolSize v - 1) / 2) = symbolSize v - 1 by unfold symbolSize; omega] at h
  rw [scan, columns, List.flatMap_map,
    List.flatMap_congr fun p hp => pairCells_pairRight (List.mem_range.1 hp)]
  simp only [flatMap_range_map]
  rfl

theorem length_scan (v : Nat) : (scan (symbolSize v)).length = symbolSize v * (symbolSize v - 1) := by
  have even : (symbolSize v - 1) / 2 * 2 = symbolSize v - 1 := by unfold symbolSize; omega
  rw [scan_eq, List.length_map, List.length_range, mul_left_comm, even]

theorem scanIndex_lt {n size p k j : Nat} (hp : p < n) (hk : k < size) (hj : j < 2) :
    2 * (size * p + k) + j < n * (size * 2) := by
  have pairs := Nat.mul_le_mul_right (size * 2) (Nat.succ_le_of_lt hp)
  linarith

/-- Every place of the scan is a side of a row of a pair. -/
theorem exists_scanIndex {n size t : Nat} (ht : t < n * (size * 2)) :
    ∃ p < n, ∃ k < size, ∃ j < 2, t = 2 * (size * p + k) + j := by
  have pos : 0 < size * 2 := Nat.pos_of_lt_mul_left ht
  have row := Nat.mod_lt t pos
  refine ⟨t / (size * 2), (Nat.div_lt_iff_lt_mul pos).2 ht, t % (size * 2) / 2, by omega, t % (size * 2) % 2,
    by omega, ?_⟩
  rw [Nat.mul_add, Nat.add_assoc, Nat.div_add_mod, ← Nat.mul_assoc, Nat.mul_comm 2, Nat.div_add_mod]

theorem getElem?_scan {v p k j : Nat} (hp : p < (symbolSize v - 1) / 2) (hk : k < symbolSize v) (hj : j < 2) :
    (scan (symbolSize v))[2 * (symbolSize v * p + k) + j]? =
      some (pairRight (symbolSize v) p - j, pairRow (symbolSize v) p k) := by
  rw [scan_eq, List.getElem?_map, List.getElem?_range (scanIndex_lt hp hk hj), Option.map_some, scanCell_index hk hj]

/-- The two columns of a pair are those of no other pair. -/
theorem pairRight_inj {v p q i j : Nat} (hp : p < (symbolSize v - 1) / 2) (hq : q < (symbolSize v - 1) / 2)
    (hi : i < 2) (hj : j < 2) (h : pairRight (symbolSize v) p - i = pairRight (symbolSize v) q - j) :
    p = q ∧ i = j := by
  unfold pairRight symbolSize at h
  unfold symbolSize at hp hq
  split at h <;> split at h <;> omega

theorem pairRow_inj {size p k l : Nat} (hk : k < size) (hl : l < size) (h : pairRow size p k = pairRow size p l) :
    k = l := by
  unfold pairRow at h
  split at h <;> omega

theorem nodup_scan (v : Nat) : (scan (symbolSize v)).Nodup := by
  rw [scan_eq]
  refine List.nodup_range.map_on fun t ht u hu same => ?_
  obtain ⟨p, hp, k, hk, i, hi, rfl⟩ := exists_scanIndex (List.mem_range.1 ht)
  obtain ⟨q, hq, l, hl, j, hj, rfl⟩ := exists_scanIndex (List.mem_range.1 hu)
  rw [scanCell_index hk hi, scanCell_index hl hj, Prod.mk.injEq] at same
  obtain ⟨rfl, rfl⟩ := pairRight_inj hp hq hi hj same.1
  obtain rfl := pairRow_inj hk hl same.2
  rfl

theorem pairRight_sub_ne_six {v p j : Nat} (hj : j < 2) : pairRight (symbolSize v) p - j ≠ 6 := by
  unfold pairRight symbolSize
  split <;> omega

/-- A column right of column 6 is counted from the right edge, one left of it from the column after that. -/
theorem exists_pairRight_sub_eq {v x : Nat} (hx : x < symbolSize v) (h6 : x ≠ 6) :
    ∃ p < (symbolSize v - 1) / 2, ∃ j < 2, pairRight (symbolSize v) p - j = x := by
  unfold pairRight
  unfold symbolSize at hx ⊢
  obtain left | right := Nat.lt_or_gt_of_ne h6
  · refine ⟨(4 * v + 15 - x) / 2, by omega, (4 * v + 15 - x) % 2, by omega, ?_⟩
    split <;> omega
  · refine ⟨(4 * v + 16 - x) / 2, by omega, (4 * v + 16 - x) % 2, by omega, ?_⟩
    split <;> omega

theorem exists_pairRow_eq {size y : Nat} (hy : y < size) (p : Nat) : ∃ k < size, pairRow size p k = y := by
  unfold pairRow
  split
  · exact ⟨size - 1 - y, by omega, by omega⟩
  · exact ⟨y, hy, rfl⟩

theorem mem_scan_iff {v x y : Nat} :
    (x, y) ∈ scan (symbolSize v) ↔ x < symbolSize v ∧ y < symbolSize v ∧ x ≠ 6 := by
  constructor
  · intro h
    obtain ⟨hx, hy⟩ := mem_scan h
    rw [scan_eq, List.mem_map] at h
    obtain ⟨t, ht, hc⟩ := h
    obtain ⟨p, -, k, hk, j, hj, rfl⟩ := exists_scanIndex (List.mem_range.1 ht)
    rw [scanCell_index hk hj] at hc
    obtain ⟨rfl, -⟩ := Prod.mk.inj hc
    exact ⟨hx, hy, pairRight_sub_ne_six hj⟩
  · rintro ⟨hx, hy, h6⟩
    obtain ⟨p, hp, j, hj, rfl⟩ := exists_pairRight_sub_eq hx h6
    obtain ⟨k, hk, rfl⟩ := exists_pairRow_eq hy p
    exact List.mem_of_getElem? (getElem?_scan hp hk hj)

/-! ### The cells after the placement (R231, R232) -/

theorem nodup_dataCells (f : Grid) (v : Nat) : (dataCells f (symbolSize v)).Nodup := (nodup_scan v).filter _

theorem mem_dataCells {f : Grid} {size : Nat} {c : Nat × Nat} (h : c ∈ dataCells f size) : c.1 < size ∧ c.2 < size :=
  mem_scan (List.mem_of_mem_filter h)

theorem get_foldl_set_zip_of_notMem {cells : List (Nat × Nat)} {x y : Nat} (h : (x, y) ∉ cells) (bits : List Bool)
    (g : Grid) : ((cells.zip bits).foldl (fun g p => g.set p.1.1 p.1.2 p.2) g).get x y = g.get x y :=
  get_foldl_set_of_notMem (fun c hc hxy => h (hxy ▸ (List.of_mem_zip (a := c.1) (b := c.2) hc).1)) g

/-- Distinct cells keep the bit they are given, and those after the last bit keep what they held. -/
theorem get_foldl_set_zip {cells : List (Nat × Nat)} (distinct : cells.Nodup)
    (inside : ∀ c ∈ cells, c.1 < 177 ∧ c.2 < 177) {i : Nat} {c : Nat × Nat} (hc : cells[i]? = some c)
    (bits : List Bool) (g : Grid) :
    ((cells.zip bits).foldl (fun g p => g.set p.1.1 p.1.2 p.2) g).get c.1 c.2 = bits[i]?.getD (g.get c.1 c.2) := by
  induction cells generalizing bits g i with
  | nil => simp at hc
  | cons d cells ih =>
    obtain ⟨fresh, distinct⟩ := List.nodup_cons.1 distinct
    obtain ⟨hd, inside⟩ := List.forall_mem_cons.1 inside
    match bits, i with
    | [], _ => simp
    | b :: bits, 0 =>
      obtain rfl : d = c := by simpa using hc
      rw [List.zip_cons_cons, List.foldl_cons, get_foldl_set_zip_of_notMem fresh, Grid.get_set,
        if_pos ⟨rfl, rfl, hd⟩]
      rfl
    | b :: bits, i + 1 =>
      rw [List.getElem?_cons_succ] at hc
      have other : ¬(c.1 = d.1 ∧ c.2 = d.2 ∧ d.1 < 177 ∧ d.2 < 177) := fun ⟨h, h', _⟩ =>
        fresh (Prod.ext h h' ▸ List.mem_of_getElem? hc)
      rw [List.zip_cons_cons, List.foldl_cons, ih distinct inside hc, Grid.get_set, if_neg other,
        List.getElem?_cons_succ]

theorem get_placeBits_of_notMem {f : Grid} {size x y : Nat} (h : (x, y) ∉ dataCells f size) (m : Grid)
    (bits : List Bool) : (placeBits m f size bits).get x y = m.get x y :=
  get_foldl_set_zip_of_notMem h bits m

theorem get_placeBits {f : Grid} {v i : Nat} {c : Nat × Nat} (le : symbolSize v ≤ 177)
    (hc : (dataCells f (symbolSize v))[i]? = some c) (m : Grid) (bits : List Bool) :
    (placeBits m f (symbolSize v) bits).get c.1 c.2 = bits[i]?.getD (m.get c.1 c.2) :=
  get_foldl_set_zip (nodup_dataCells f v) (fun _ hd => (mem_dataCells hd).imp (·.trans_le le) (·.trans_le le)) hc bits m

/-- The stream of R231 by index. -/
theorem getElem?_streamBits (s : State) (i : Nat) : (streamBits s.codewords)[i]? =
    if i < 8 * s.nrc.toNat then some (((s.mem.read (cwBase + i / 8)).getD 0).getLsbD (7 - i % 8)) else none := by
  have stream : streamBits s.codewords = (List.range (s.nrc.toNat * 8)).map fun i =>
      ((s.mem.read (cwBase + i / 8)).getD 0).getLsbD (7 - i % 8) := by
    rw [streamBits, State.codewords, Memory.bytes, List.flatMap_map]
    exact flatMap_range_map 8 (fun k i => ((s.mem.read (cwBase + k)).getD 0).getLsbD (7 - i)) s.nrc.toNat
  rw [stream, Nat.mul_comm]
  split
  case isTrue lt => simp [lt]
  case isFalse ge => simpa using ge

end Sys2Proof.Machine
end

section
/-! PROOF. Codeword placement (43_codeword_placement.md). -/
namespace Sys2Proof.Machine

theorem exec_drawCodewords {s : State} (phase : s.phase = .ecc) :
    exec .drawCodewords s = complete { placeCodewords s with phase := .data } :=
  if_pos phase

/-- Settles O33: the scan is the list of `scanCell` by place, and place, row and side determine the cell and are
determined by it. -/
theorem scanVisitsEveryCellOnce : Obligations.ScanVisitsEveryCellOnce := by
  unfold Obligations.ScanVisitsEveryCellOnce
  intro v _ _
  exact ⟨nodup_scan v, length_scan v, fun _ _ => mem_scan_iff, fun _ hp _ hk _ hj => getElem?_scan hp hk hj⟩

/-- Settles O34: the data cells are distinct cells of the grid, so each holds its stream bit, or what it held when the
stream is at its end. -/
theorem drawCodewordsFollowsScan : Obligations.DrawCodewordsFollowsScan := by
  unfold Obligations.DrawCodewordsFollowsScan
  intro s configured phase
  obtain ⟨-, le⟩ := configured.size_bounds
  refine ⟨_, exec_drawCodewords phase, fun i c hc => ?_, fun x y h => get_placeBits_of_notMem h s.gridM _, rfl⟩
  rw [configured.size_eq] at le hc
  simp only [placeCodewords_gridM, configured.size_eq, get_placeBits le hc, getElem?_streamBits]
  split <;> rfl

end Sys2Proof.Machine
end

section
/-! PROOF. The mask predicates and APPLY_MASK (R250 to R252). -/
namespace Sys2Proof.Machine

/-! ### The predicates (R250, R264) -/

theorem maskPred_add_six_left (m : Fin 8) (x y : Nat) : maskPred m (x + 6) y = maskPred m x y := by
  have product : (x + 6) * y = x * y + 6 * y := Nat.add_mul _ _ _
  rw [Bool.eq_iff_iff]
  fin_cases m <;> simp only [maskPred, product, beq_iff_eq] <;> omega

theorem maskPred_add_period_right (m : Fin 8) (x y : Nat) :
    maskPred m x (y + if m = 4 then 4 else 6) = maskPred m x y := by
  have product : x * (y + 6) = x * y + 6 * x := by rw [Nat.mul_add, Nat.mul_comm x 6]
  rw [Bool.eq_iff_iff]
  fin_cases m <;> simp only [Fin.reduceFinMk, Fin.reduceEq, if_true, if_false, maskPred, product, beq_iff_eq] <;> omega

theorem maskPred_corner (m : Fin 8) : ∀ x < 6, ∀ y < 6, maskPred m x y = maskCornerAt m.val x y := by
  revert m
  decide +kernel

/-! ### APPLY_MASK (R251, R252) -/

/-- A mask flips the data cells of the symbol where its predicate holds. -/
theorem get_applyMask_ite {s : State} (m : Fin 8) (hs : s.size.toNat ≤ 177) (x y : Nat) :
    (applyMask m s).gridM.get x y =
      if x < s.size.toNat ∧ y < s.size.toNat ∧ s.gridF.get x y = false ∧ maskPred m x y = true then !s.gridM.get x y
      else s.gridM.get x y := by
  rw [get_applyMask m s hs]
  split
  · simp [*]
  · rename_i h
    have : (decide (x < s.size.toNat ∧ y < s.size.toNat) && (!s.gridF.get x y && maskPred m x y)) = false := by
      simpa [and_assoc] using h
    rw [this, Bool.xor_false]

/-- Settles O35: one application of the mask in either phase, and the periods of the terms of the predicates. -/
theorem applyMaskFlipsDataCells : Obligations.ApplyMaskFlipsDataCells := by
  unfold Obligations.ApplyMaskFlipsDataCells
  refine ⟨fun s m hs hp => ?_, fun m => ⟨maskPred_corner m, fun x y =>
    ⟨maskPred_add_six_left m x y, maskPred_add_period_right m x y⟩⟩⟩
  obtain phase | ⟨phase, trial⟩ := hp
  · exact ⟨_, exec_applyMask_of_data phase m, get_applyMask_ite m hs, by simp [phase]⟩
  · exact ⟨_, exec_applyMask_of_trial phase trial, get_applyMask_ite m hs, by simp [phase]⟩

/-- Settles O36: the second application finds its own trial mask, and a mask undoes itself. -/
theorem applyMaskTwiceRestores : Obligations.ApplyMaskTwiceRestores := by
  unfold Obligations.ApplyMaskTwiceRestores
  intro s m phase trial
  rw [succeeds_cons_of_complete (exec_applyMask_of_data phase m),
    succeeds_cons_of_complete (exec_applyMask_of_trial rfl rfl)]
  have twice := congrArg State.gridM (applyMask_applyMask m s)
  simp only [applyMask_gridM, applyMask_gridF, applyMask_size] at twice
  simp [succeeds, applyMask, phase, trial, twice]

end Sys2Proof.Machine
end

section
/-! PROOF. The step count of the imbalance under each reading of N4_RULE (R259). -/
namespace Sys2Proof.Machine

theorem imbalanceSteps_floor_iff {a total k : Nat} (pos : 0 < total) :
    imbalanceSteps .floor a total = k ↔ total * k ≤ a ∧ a < total * (k + 1) := by
  rw [imbalanceSteps, Nat.div_eq_iff pos]
  grind

/-- CEIL_MINUS_ONE of a positive deviation is FLOOR of the deviation less 1. -/
theorem imbalanceSteps_ceilMinusOne_succ {total : Nat} (pos : 0 < total) (a : Nat) :
    imbalanceSteps .ceilMinusOne (a + 1) total = imbalanceSteps .floor a total := by
  simp only [imbalanceSteps]
  rw [show a + 1 + total - 1 = a + total by omega, Nat.add_div_right a pos, Nat.succ_sub_one]

theorem imbalanceSteps_ceilMinusOne_zero {total : Nat} (pos : 0 < total) :
    imbalanceSteps .ceilMinusOne 0 total = 0 := by
  simp [imbalanceSteps, Nat.div_eq_of_lt (Nat.sub_lt pos Nat.one_pos)]

/-- The two readings side by side: FLOOR is one more exactly where the deviation is a multiple of the total. -/
theorem imbalanceSteps_floor_succ {total : Nat} (pos : 0 < total) (a : Nat) :
    imbalanceSteps .floor (a + 1) total =
      imbalanceSteps .ceilMinusOne (a + 1) total + if total ∣ a + 1 then 1 else 0 := by
  rw [imbalanceSteps_ceilMinusOne_succ pos]
  exact Nat.succ_div

/-- Settles O39: a deviation of 0 has no step, and any other is one more than the deviation that FLOOR divides. -/
theorem imbalanceReadingsAgree : Obligations.ImbalanceReadingsAgree := by
  unfold Obligations.ImbalanceReadingsAgree
  intro a total pos
  have floor := fun k => imbalanceSteps_floor_iff (a := a) (k := k) pos
  have zero := imbalanceSteps_ceilMinusOne_zero pos
  cases a with
  | zero =>
    have equal : imbalanceSteps .floor 0 total = 0 := Nat.zero_div total
    exact ⟨floor, nofun, zero, by simp [zero, equal], nofun⟩
  | succ a =>
    have more := imbalanceSteps_floor_succ pos a
    refine ⟨floor, fun _ k => ?steps, zero, ?differ, fun _ multiple => by rw [more, if_pos multiple]⟩
    case steps =>
      rw [imbalanceSteps_ceilMinusOne_succ pos, imbalanceSteps_floor_iff pos]
      omega
    case differ =>
      rw [more]
      split <;> simp [*]

/-- The step count is the one that R259 describes. -/
theorem isImbalanceStep_imbalanceSteps (rule : ImbalanceRule) {total : Nat} (pos : 0 < total) (a : Nat) :
    isImbalanceStep rule a total (imbalanceSteps rule a total) := by
  obtain ⟨floor, ceil, zero, -⟩ := imbalanceReadingsAgree a total pos
  cases rule with
  | floor => exact (floor _).1 rfl
  | ceilMinusOne =>
    obtain rfl | ha := Nat.eq_zero_or_pos a
    · exact .inl ⟨rfl, zero⟩
    · exact .inr ((ceil ha _).1 rfl)

end Sys2Proof.Machine
end

section
/-! SUPPORT. A line as runs of alternating colour, and its N1 and N3 scores by run length (R254 to R257). -/
namespace Sys2Proof.Machine

/-! ### Lines as runs -/

/-- Runs of the given lengths in alternating colours, the first of colour `c`. -/
def runsFrom : Bool → List Nat → List (List Bool)
  | _, [] => []
  | c, n :: ns => List.replicate n c :: runsFrom (!c) ns

@[simp] theorem runsFrom_cons (c : Bool) (n : Nat) (ns : List Nat) :
    runsFrom c (n :: ns) = List.replicate n c :: runsFrom (!c) ns := rfl

/-- Every line is a sequence of runs; only the first may be empty, so its colour is free. -/
theorem exists_flatten_runsFrom_eq (line : List Bool) (c : Bool) :
    ∃ n ns, (∀ m ∈ ns, 0 < m) ∧ (runsFrom c (n :: ns)).flatten = line := by
  induction line generalizing c with
  | nil => exact ⟨0, [], nofun, rfl⟩
  | cons cell line ih =>
    obtain ⟨n, ns, pos, rfl⟩ := ih cell
    by_cases hc : cell = c
    · exact ⟨n + 1, ns, pos, by simp [hc, List.replicate_succ]⟩
    · refine ⟨0, (n + 1) :: ns, by simpa using pos, ?_⟩
      rw [Bool.eq_not.2 hc]
      simp [List.replicate_succ]

theorem splitBy_replicate {n : Nat} (pos : 0 < n) (c : Bool) :
    (List.replicate n c).splitBy (· == ·) = [List.replicate n c] :=
  List.splitBy_of_isChain (by simp [pos.ne']) (List.isChain_replicate_of_rel n (by simp))

/-- The maximal runs of a line of non-empty alternating runs are these. -/
theorem splitBy_flatten_runsFrom {ns : List Nat} (pos : ∀ m ∈ ns, 0 < m) (c : Bool) :
    (runsFrom c ns).flatten.splitBy (· == ·) = runsFrom c ns := by
  induction ns generalizing c with
  | nil => rfl
  | cons n ns ih =>
    obtain ⟨hn, hns⟩ := List.forall_mem_cons.1 pos
    have turn : ∀ x ∈ (List.replicate n c).getLast?, ∀ y ∈ (runsFrom (!c) ns).flatten.head?, (x == y) = false := by
      cases ns with
      | nil => simp [runsFrom]
      | cons m ns =>
        have hm := hns m List.mem_cons_self
        simp [List.getLast?_replicate, List.head?_append, List.head?_replicate, hn.ne', hm.ne']
    rw [runsFrom_cons, List.flatten_cons, List.splitBy_append turn, splitBy_replicate hn, ih hns, List.singleton_append]

/-! ### N1 by run length (R256) -/

/-- The N1 points of a run. -/
def runScore (n : Nat) : Nat := if 5 ≤ n then 3 + (n - 5) else 0

theorem sum_runScore_runsFrom (c : Bool) (ns : List Nat) :
    ((runsFrom c ns).map fun run => if 5 ≤ run.length then 3 + (run.length - 5) else 0).sum = (ns.map runScore).sum := by
  induction ns generalizing c with
  | nil => rfl
  | cons n ns ih => simp [ih, runScore]

theorem runPoints_flatten_runsFrom {ns : List Nat} (pos : ∀ m ∈ ns, 0 < m) (c : Bool) (n : Nat) :
    runPoints (runsFrom c (n :: ns)).flatten = ((n :: ns).map runScore).sum := by
  obtain rfl | hn := Nat.eq_zero_or_pos n
  · simp [runPoints, splitBy_flatten_runsFrom pos, sum_runScore_runsFrom, runScore]
  · rw [runPoints, splitBy_flatten_runsFrom (List.forall_mem_cons.2 ⟨hn, pos⟩), sum_runScore_runsFrom]

/-! ### N3 by run length (R254, R257) -/

/-- The finder windows among consecutive runs (R257). -/
def windowCount (rule : FlankRule) (runs : List (List Bool)) : Nat := (runs.tails.map (finderWindow rule)).sum

@[simp] theorem windowCount_cons (rule : FlankRule) (run : List Bool) (runs : List (List Bool)) :
    windowCount rule (run :: runs) = finderWindow rule (run :: runs) + windowCount rule runs := by
  simp [windowCount]

/-- A run enters the history as it is, the border already counted. -/
def History.push (h : History) (n : Nat) : History :=
  { h0 := n, h1 := h.h0, h2 := h.h1, h3 := h.h2, h4 := h.h3, h5 := h.h4, h6 := h.h5 }

/-- The N3 count over the runs still to come, the first of colour `c`, after the runs in the history: the detector looks
at the history each time a light run has entered it. -/
def detections (rule : FlankRule) : Bool → History → List Nat → Nat
  | _, _, [] => 0
  | c, h, n :: ns => (if c then 0 else countPatterns rule (h.push n)) + detections rule (!c) (h.push n) ns

@[simp] theorem detections_cons (rule : FlankRule) (c : Bool) (h : History) (n : Nat) (ns : List Nat) :
    detections rule c h (n :: ns) =
      (if c then 0 else countPatterns rule (h.push n)) + detections rule (!c) (h.push n) ns := rfl

/-- Without a trailing flank there is no pattern. -/
theorem countPatterns_push_zero (rule : FlankRule) (h : History) : countPatterns rule (h.push 0) = 0 := by
  cases rule <;> grind [countPatterns, flankCount, History.push]

/-- Without a leading flank there is no window. -/
theorem finderWindow_nil_cons (rule : FlankRule) (runs : List (List Bool)) : finderWindow rule ([] :: runs) = 0 := by
  unfold finderWindow
  split
  next lead c1 c2 c3 c4 c5 trail rest heq =>
    obtain ⟨rfl, -⟩ := List.cons.inj heq
    split
    next core =>
      have : c1.length ≠ 0 := by
        intro h
        simp [List.length_eq_zero_iff.1 h] at core
      cases rule <;> grind
    next => rfl
  next => rfl

/-- Seven alternating runs are a window as they are a history, when they begin and end with a light run. -/
theorem finderWindow_runsFrom (rule : FlankRule) (c : Bool) (n0 n1 n2 n3 n4 n5 n6 : Nat) (ns : List Nat) :
    finderWindow rule (runsFrom c (n0 :: n1 :: n2 :: n3 :: n4 :: n5 :: n6 :: ns)) =
      if c then 0 else countPatterns rule ⟨n6, n5, n4, n3, n2, n1, n0⟩ := by
  have first : (List.replicate n1 (!c)).head? = some true ↔ c = false ∧ 0 < n1 := by
    cases n1 <;> simp [List.replicate_succ]
  simp only [runsFrom_cons, finderWindow, first, List.length_replicate, countPatterns, flankCount]
  cases c <;> cases rule <;> grind

/-- After six runs the detector finds the windows that begin with them or later. -/
theorem detections_eq_windowCount (rule : FlankRule) (c : Bool) (n0 n1 n2 n3 n4 n5 z : Nat) (ns : List Nat) :
    detections rule c ⟨n5, n4, n3, n2, n1, n0, z⟩ ns =
      windowCount rule (runsFrom c (n0 :: n1 :: n2 :: n3 :: n4 :: n5 :: ns)) := by
  induction ns generalizing c n0 n1 n2 n3 n4 n5 z with
  | nil => simp [detections, windowCount, runsFrom, finderWindow]
  | cons n ns ih =>
    rw [detections_cons, History.push, ih, runsFrom_cons c n0, windowCount_cons, ← runsFrom_cons, finderWindow_runsFrom]

theorem detections_empty (rule : FlankRule) (ns : List Nat) :
    detections rule false History.empty ns = windowCount rule (runsFrom false ns) := by
  rw [History.empty, detections_eq_windowCount]
  simp [finderWindow_nil_cons]

/-! ### The light borders (R254) -/

/-- The length with which a run enters the history: the border before the line belongs to its first run. -/
def borderedRun (size : Nat) (h : History) (n : Nat) : Nat := if h.h0 = 0 then n + size else n

theorem History.add_eq_push (size : Nat) (h : History) (n : Nat) : h.add size n = h.push (borderedRun size h n) := rfl

/-- The border after the line lengthens the last of the runs `n :: ns`, the first of colour `c`, or is a run of its own. -/
def closeBorder (size : Nat) : Bool → Nat → List Nat → List Nat
  | c, n, [] => if c = true ∧ 0 < size then [n, size] else if c then [n] else [n + size]
  | c, n, m :: ns => n :: closeBorder size (!c) m ns

@[simp] theorem closeBorder_cons (size : Nat) (c : Bool) (n m : Nat) (ns : List Nat) :
    closeBorder size c n (m :: ns) = n :: closeBorder size (!c) m ns := rfl

theorem flatten_closeBorder (size : Nat) (c : Bool) (n : Nat) (ns : List Nat) :
    (runsFrom c (closeBorder size c n ns)).flatten = (runsFrom c (n :: ns)).flatten ++ List.replicate size false := by
  induction ns generalizing c n with
  | nil => cases c <;> rcases size with _ | size <;> simp [closeBorder, runsFrom]
  | cons m ns ih => simpa using ih (!c) m

/-- With the border no run but the first can be empty. -/
theorem exists_closeBorder_eq {ns : List Nat} (pos : ∀ m ∈ ns, 0 < m) (size : Nat) (c : Bool) (n : Nat) :
    ∃ k ks, closeBorder size c n ns = k :: ks ∧ n ≤ k ∧ ∀ m ∈ ks, 0 < m := by
  induction ns generalizing c n with
  | nil => cases c <;> rcases size with _ | size <;> simp [closeBorder]
  | cons m ns ih =>
    obtain ⟨hm, hns⟩ := List.forall_mem_cons.1 pos
    obtain ⟨k, ks, h, le, hks⟩ := ih hns (!c) m
    exact ⟨n, k :: ks, by rw [closeBorder_cons, h], Nat.le_refl n, List.forall_mem_cons.2 ⟨hm.trans_le le, hks⟩⟩

/-- An empty first run begins no window, so the maximal runs have the windows of all. -/
theorem windowCount_splitBy (rule : FlankRule) {ks : List Nat} (pos : ∀ m ∈ ks, 0 < m) (c : Bool) (k : Nat) :
    windowCount rule ((runsFrom c (k :: ks)).flatten.splitBy (· == ·)) = windowCount rule (runsFrom c (k :: ks)) := by
  obtain rfl | hk := Nat.eq_zero_or_pos k
  · simp [splitBy_flatten_runsFrom pos, finderWindow_nil_cons]
  · rw [splitBy_flatten_runsFrom (List.forall_mem_cons.2 ⟨hk, pos⟩)]

theorem finderLikeCount_flatten_runsFrom (rule : FlankRule) (size : Nat) {ns : List Nat} (pos : ∀ m ∈ ns, 0 < m)
    (n : Nat) : finderLikeCount rule size (runsFrom false (n :: ns)).flatten =
      detections rule false History.empty (closeBorder size false (n + size) ns) := by
  have bordered : List.replicate size false ++ (runsFrom false (n :: ns)).flatten ++ List.replicate size false =
      (runsFrom false (closeBorder size false (n + size) ns)).flatten := by
    rw [flatten_closeBorder, Nat.add_comm n]
    simp only [runsFrom_cons, List.flatten_cons, ← List.replicate_append_replicate, List.append_assoc]
  obtain ⟨k, ks, closed, -, hks⟩ := exists_closeBorder_eq pos size false (n + size)
  rw [finderLikeCount, bordered, closed, detections_empty, ← windowCount_splitBy rule hks]
  rfl

/-! ### The scan run by run (R255) -/

/-- More cells of the colour of the run. -/
theorem foldl_lineStep_same (rule : FlankRule) (size : Nat) (b n k : Nat) (c : Bool) (h : History) :
    (List.replicate k c).foldl (lineStep rule size) ⟨b + runScore n, c, n, h⟩ = ⟨b + runScore (n + k), c, n + k, h⟩ := by
  induction k generalizing n with
  | zero => rfl
  | succ k ih =>
    have cell : lineStep rule size ⟨b + runScore n, c, n, h⟩ c = ⟨b + runScore (n + 1), c, n + 1, h⟩ := by
      simp only [lineStep, runScore, if_true, LineScan.mk.injEq, and_true]
      grind
    rw [List.replicate_succ, List.foldl_cons, cell, ih, Nat.add_right_comm, Nat.add_assoc]

/-- A run of the other colour: the run before it enters the history, and the detector looks at it when it is light. -/
theorem foldl_lineStep_turn (rule : FlankRule) (size : Nat) (s n : Nat) (c : Bool) (h : History) {m : Nat} (pos : 0 < m) :
    (List.replicate m (!c)).foldl (lineStep rule size) ⟨s, c, n, h⟩ =
      ⟨s + (if c then 0 else 40 * countPatterns rule (h.add size n)) + runScore m, !c, m, h.add size n⟩ := by
  obtain ⟨k, rfl⟩ := Nat.exists_eq_add_of_lt pos
  have cell : lineStep rule size ⟨s, c, n, h⟩ (!c) =
      ⟨s + (if c then 0 else 40 * countPatterns rule (h.add size n)) + runScore 1, !c, 1, h.add size n⟩ := by
    simp [lineStep, runScore]
  rw [Nat.zero_add, List.replicate_succ, List.foldl_cons, cell, foldl_lineStep_same, Nat.add_comm 1 k]

/-- The score at the end of the scan (R255). -/
def LineScan.total (rule : FlankRule) (size : Nat) (st : LineScan) : Nat :=
  st.score + 40 * terminateAndCount rule size st.color st.run st.history

theorem lineScore_eq_total (rule : FlankRule) (size : Nat) (line : List Bool) :
    lineScore rule size line = (line.foldl (lineStep rule size) ⟨0, false, 0, History.empty⟩).total rule size := rfl

/-- After the first run of the line, or when there is a border, a run has some length in the history. -/
theorem borderedRun_push {size n : Nat} {h : History} (started : 0 < n ∨ h.h0 = 0) (m : Nat) :
    borderedRun size (h.push (borderedRun size h n)) m = m := by
  simp only [borderedRun, History.push]
  grind

/-- The end of the line is a run of light border (R254). -/
theorem terminateAndCount_eq (rule : FlankRule) (size : Nat) {c : Bool} {n : Nat} {h : History}
    (started : 0 < n ∨ c = false ∧ h.h0 = 0) :
    terminateAndCount rule size c n h = detections rule c h (closeBorder size c (borderedRun size h n) []) := by
  cases c with
  | false =>
    have last : borderedRun size h (n + size) = borderedRun size h n + size := by
      simp only [borderedRun]
      split <;> omega
    simp [terminateAndCount, History.add_eq_push, closeBorder, detections, last]
  | true =>
    have border : borderedRun size (h.push (borderedRun size h n)) size = size :=
      borderedRun_push (started.imp_right And.right) size
    rcases size with _ | size
    · simp [terminateAndCount, History.add_eq_push, closeBorder, detections, border, countPatterns_push_zero]
    · simp [terminateAndCount, History.add_eq_push, closeBorder, detections, border]

/-- The scan from a point where the run `n` of colour `c` has come to its end and the runs `ns` are still to come. -/
theorem total_foldl_lineStep (rule : FlankRule) (size : Nat) {ns : List Nat} (pos : ∀ m ∈ ns, 0 < m) {c : Bool} {n : Nat}
    {h : History} (started : 0 < n ∨ c = false ∧ h.h0 = 0) (s : Nat) :
    ((runsFrom (!c) ns).flatten.foldl (lineStep rule size) ⟨s, c, n, h⟩).total rule size =
      s + (ns.map runScore).sum + 40 * detections rule c h (closeBorder size c (borderedRun size h n) ns) := by
  induction ns generalizing c n h s with
  | nil => simp [runsFrom, LineScan.total, terminateAndCount_eq rule size started]
  | cons m ns ih =>
    obtain ⟨hm, hns⟩ := List.forall_mem_cons.1 pos
    have next := borderedRun_push (size := size) (started.imp_right And.right) m
    rw [runsFrom_cons, List.flatten_cons, List.foldl_append, foldl_lineStep_turn _ _ _ _ _ _ hm, ih hns (.inl hm),
      History.add_eq_push, next, closeBorder_cons, detections_cons, List.map_cons, List.sum_cons]
    split <;> omega

end Sys2Proof.Machine
end

section
/-! PROOF. The score of a line (R254 to R257). -/
namespace Sys2Proof.Machine

/-- Settles O38: the scan goes run by run over the line, and both scores are read off the lengths of the runs. -/
theorem lineScoreCountsRuns : Obligations.LineScoreCountsRuns := by
  unfold Obligations.LineScoreCountsRuns
  intro rule size line
  obtain ⟨n, ns, pos, rfl⟩ := exists_flatten_runsFrom_eq line false
  have first : (List.replicate n false).foldl (lineStep rule size) ⟨0, false, 0, History.empty⟩ =
      ⟨runScore n, false, n, History.empty⟩ := by
    simpa [runScore] using foldl_lineStep_same rule size 0 0 n false History.empty
  have border : borderedRun size History.empty n = n + size := rfl
  rw [linePoints, runPoints_flatten_runsFrom pos, finderLikeCount_flatten_runsFrom rule size pos, lineScore_eq_total,
    runsFrom_cons, List.flatten_cons, List.foldl_append, first, total_foldl_lineStep rule size pos (.inr ⟨rfl, rfl⟩),
    border, List.map_cons, List.sum_cons]

end Sys2Proof.Machine
end

section
/-! PROOF. The penalty score by position, and PENALTY (R253, R256 to R261). -/
namespace Sys2Proof.Machine

/-! ### Counts over the cells, row by row (R258, R259) -/

/-- The pairs that pass are counted row by row, though `product` lists them column by column. -/
theorem countP_product (p : Nat → Nat → Bool) (xs ys : List Nat) :
    (xs.product ys).countP (fun c => p c.1 c.2) = (ys.map fun y => xs.countP fun x => p x y).sum := by
  have column : ∀ (f : Nat → Nat) (q : Nat → Bool) (ys : List Nat),
      (ys.map fun y => f y + if q y then 1 else 0).sum = ys.countP q + (ys.map f).sum := by
    intro f q ys
    induction ys with
    | nil => rfl
    | cons y ys ih =>
      simp only [List.map_cons, List.sum_cons, ih, List.countP_cons]
      omega
  induction xs with
  | nil => simp [List.product]
  | cons x xs ih =>
    simp only [List.countP_cons, column, ← ih]
    exact (List.countP_append (l₁ := ys.map (x, ·)) (l₂ := xs.product ys)).trans (by rw [List.countP_map]; rfl)

theorem n2Score_eq (m : Grid) (size : Nat) : n2Score m size = 3 * uniformWindowCount m size := by
  have window : (fun c : Nat × Nat => uniformWindow m c.1 c.2) = fun c => decide (m.get c.1 c.2 = m.get (c.1 + 1) c.2 ∧
      m.get c.1 c.2 = m.get c.1 (c.2 + 1) ∧ m.get c.1 c.2 = m.get (c.1 + 1) (c.2 + 1)) := by
    funext c
    simp [uniformWindow, Bool.beq_eq_decide_eq]
  rw [n2Score, List.sum_map_mul_left, uniformWindowCount, cellsBelow, ← window, countP_product (uniformWindow m)]

theorem darkCount_eq (m : Grid) (size : Nat) : darkCount m size = darkCells m size := by
  simp only [darkCells, cellsBelow, countP_product m.get, darkCount, Grid.row, List.countP_map]
  rfl

/-! ### PENALTY (R261) -/

theorem exec_penalty {s : State} (phase : s.phase ≠ .idle) :
    exec .penalty s = complete { s with result := BitVec.ofNat 32 s.penalty } :=
  if_neg phase

/-- The score fits RESULT, PSCORE and BEST_PENALTY (R260). -/
theorem toNat_ofNat_penalty {s : State} (hs : s.size.toNat ≤ 177) : (BitVec.ofNat 32 s.penalty).toNat = s.penalty :=
  Nat.mod_eq_of_lt ((penaltyScore_le hs _ _).trans_lt (by decide))

/-- Settles O37: each term of `penaltyScore` is the one by position. -/
theorem penaltyFitsResult : Obligations.PenaltyFitsResult := by
  unfold Obligations.PenaltyFitsResult
  intro s phase hs
  refine ⟨penaltyScore_le hs _ _, fun _ => rfl, fun pos => ⟨_, isImbalanceStep_imbalanceSteps _ ?_ _, ?_⟩,
    _, exec_penalty phase, toNat_ofNat_penalty hs, rfl⟩
  · exact Nat.mul_pos pos pos
  · simp only [State.penalty, penaltyScore, lineScoreCountsRuns _ _ _, n2Score_eq, n4Score, darkCount_eq, imbalance]

end Sys2Proof.Machine
end

section
/-! SUPPORT. The loop of `chooseMask` and the body of FINALIZE, by trial (R262, R263). -/
namespace Sys2Proof.Machine

/-! ### States that differ at format cells only -/

/-- Draws see nothing of M at the cells they write. -/
theorem drawAll_congr {ws : List ModuleWrite} (inside : WritesInside 177 ws) {c c' : Canvas} (f : c.f = c'.f)
    (m : ∀ x y, ¬Covers ws x y → c.m.get x y = c'.m.get x y) : drawAll ws c = drawAll ws c' := by
  have modules : ∀ x y, (drawAll ws c).m.get x y = (drawAll ws c').m.get x y := fun x y => by
    by_cases h : Covers ws x y
    · obtain ⟨w, hw, rfl, rfl⟩ := h
      have hit : (ws.reverse.find? (·.hits w.x w.y)).isSome = true :=
        List.find?_isSome.2 ⟨w, List.mem_reverse.2 hw, decide_eq_true ⟨rfl, rfl, inside w hw⟩⟩
      obtain ⟨v, hv⟩ := Option.isSome_iff_exists.1 hit
      simp only [drawAll_m, hv, Option.map_some, Option.getD_some]
    · rw [(get_drawAll_of_not_covers h c).1, (get_drawAll_of_not_covers h c').1, m x y h]
  have marks : ∀ x y, (drawAll ws c).f.get x y = (drawAll ws c').f.get x y := fun x y => by
    rw [drawAll_f, drawAll_f, f]
  exact congrArg₂ Canvas.mk (Grid.ext_get modules) (Grid.ext_get marks)

/-- `t` is `s` but for modules at format cells. -/
structure SameButFormat (s t : State) : Prop where
  frame : t = { s with gridM := t.gridM }
  cells : ∀ x y, ¬isFormatCell s.size.toNat x y → t.gridM.get x y = s.gridM.get x y

theorem SameButFormat.refl (s : State) : SameButFormat s s := ⟨rfl, fun _ _ _ => rfl⟩

/-- A trial redraws the format cells, so it sees nothing of what they held. -/
theorem SameButFormat.trialOn_eq {s t : State} (h : SameButFormat s t) (lo : 21 ≤ s.size.toNat)
    (hi : s.size.toNat ≤ 177) (k : Fin 8) : trialOn k t = trialOn k s := by
  obtain ⟨frame, cells⟩ := h
  generalize t.gridM = m at frame cells
  subst frame
  have drawn := drawAll_congr (c := (applyMask k { s with gridM := m }).canvas) (c' := (applyMask k s).canvas)
    ((writesInside_format (show 15 ≤ s.size.toNat by omega) (formatBits s.ecl k)).mono hi) rfl fun x y hxy => by
      have same := cells x y (mt (covers_formatWrites _ _ _ _).2 hxy)
      simp only [State.canvas, applyMask_gridM, Grid.get_xor, same]
  exact congrArg (applyMask k s).withCanvas drawn

/-! ### The eight trials (R262) -/

/-- A trial with its mask undone leaves all but format cells. -/
theorem PatternsInPlace.sameButFormat_trialPass {s : State} (h : PatternsInPlace s) (hi : s.size.toNat ≤ 177)
    (k : Fin 8) : SameButFormat s (trialPass k s).2 :=
  ⟨h.trialPass_frame k, fun _ _ => h.get_trialPass hi k⟩

/-- Each trial of the loop scores what it would score alone. -/
theorem PatternsInPlace.trials_eq {s t : State} (h : PatternsInPlace s) (lo : 21 ≤ s.size.toNat)
    (hi : s.size.toNat ≤ 177) (ht : SameButFormat s t) (is : List (Fin 8)) :
    (trials is t).1 = is.map (fun i => (trialOn i s).penalty) ∧ SameButFormat s (trials is t).2 := by
  induction is generalizing t with
  | nil => exact ⟨rfl, ht⟩
  | cons i is ih =>
    have pass : trialPass i t = trialPass i s := by simp only [trialPass, ht.trialOn_eq lo hi]
    obtain ⟨scores, rest⟩ := ih (h.sameButFormat_trialPass hi i)
    rw [trials, pass]
    exact ⟨congrArg (_ :: ·) scores, rest⟩

/-! ### The best mask (R262) -/

/-- The fold keeps the first of the indices with the least score. -/
theorem foldl_best (f : Fin 8 → Nat) (is : List (Fin 8)) (start : Fin 8) (sorted : (start :: is).Pairwise (· ≤ ·)) :
    let b := is.foldl (fun best i => if f i < f best then i else best) start
    start ≤ b ∧ ∀ i ∈ start :: is, f b ≤ f i ∧ (i < b → f b < f i) := by
  induction is generalizing start with
  | nil => simp
  | cons j is ih =>
    obtain ⟨first, rest⟩ := List.pairwise_cons.1 sorted
    obtain ⟨hj, hstart⟩ := List.forall_mem_cons.1 first
    simp only [List.foldl_cons]
    by_cases less : f j < f start
    · rw [if_pos less]
      obtain ⟨le, best⟩ := ih j rest
      have least := (best j List.mem_cons_self).1
      exact ⟨hj.trans le, List.forall_mem_cons.2 ⟨⟨by omega, fun _ => by omega⟩, best⟩⟩
    · rw [if_neg less]
      obtain ⟨le, best⟩ := ih start (List.pairwise_cons.2 ⟨hstart, (List.pairwise_cons.1 rest).2⟩)
      obtain ⟨least, tail⟩ := List.forall_mem_cons.1 best
      refine ⟨le, List.forall_mem_cons.2 ⟨least, List.forall_mem_cons.2 ⟨⟨by omega, fun lt => ?_⟩, tail⟩⟩⟩
      have := least.2 (hj.trans_lt lt)
      omega

theorem getD_map_finRange (f : Fin 8 → Nat) (i : Fin 8) : ((List.finRange 8).map f).getD i.val 0 = f i := by simp

/-- The best mask is the first with the least score. -/
theorem bestMask_spec (f : Fin 8 → Nat) {b : Fin 8} (hb : b = bestMask ((List.finRange 8).map f)) (i : Fin 8) :
    f b ≤ f i ∧ (i < b → f b < f i) := by
  have sorted : ((0 : Fin 8) :: List.finRange 8).Pairwise (· ≤ ·) := by decide
  have best := (foldl_best f (List.finRange 8) 0 sorted).2 i (List.mem_cons_of_mem _ (List.mem_finRange i))
  simpa only [hb, bestMask, getD_map_finRange] using best

/-! ### The body of FINALIZE (R263) -/

theorem finalizeBody_fixed (m : Fin 8) (s : State) :
    finalizeBody (.fixed m) s =
      { drawVersion (trialOn m s) with mask := some m, gridF := Grid.clear, phase := .final } := rfl

/-- Of what the draws write only M stays. -/
theorem finalizeBody_fixed_frame (m : Fin 8) (s : State) :
    finalizeBody (.fixed m) s = { s with
      gridM := (drawVersion (trialOn m s)).gridM, gridF := Grid.clear, mask := some m, phase := .final } := by
  rw [finalizeBody_fixed]
  simp [trialOn, drawFormat_eq, drawVersion_eq]

/-- The mask that automatic selection chooses. -/
def chosenMask (s : State) : Fin 8 := bestMask ((List.finRange 8).map fun i => (trialOn i s).penalty)

/-- FINALIZE with the selected mask, in the state the selection leaves. -/
theorem finalizeBody_eq_fixed (choice : MaskChoice) (s : State) :
    finalizeBody choice s = finalizeBody (.fixed (selectMask choice s).1) (selectMask choice s).2 := rfl

/-- FINALIZE with a fixed mask passes PSCORE and BEST_PENALTY on. -/
theorem finalizeBody_fixed_scores (k : Fin 8) (s : State) (p : Vector Word 8) (b : Word) :
    finalizeBody (.fixed k) { s with pscore := p, bestPenalty := b } =
      { finalizeBody (.fixed k) s with pscore := p, bestPenalty := b } := rfl

/-- Automatic selection finishes the symbol as the chosen mask would, and writes PSCORE and BEST_PENALTY. -/
theorem PatternsInPlace.finalizeBody_auto {s : State} (h : PatternsInPlace s) (lo : 21 ≤ s.size.toNat)
    (hi : s.size.toNat ≤ 177) :
    finalizeBody .auto s =
      { finalizeBody (.fixed (chosenMask s)) s with
        pscore := Vector.ofFn fun i : Fin 8 => BitVec.ofNat 32 (trialOn i s).penalty
        bestPenalty := BitVec.ofNat 32 (trialOn (chosenMask s) s).penalty } := by
  obtain ⟨scores, same⟩ := h.trials_eq lo hi (.refl s) (List.finRange 8)
  have select : selectMask .auto s = (chosenMask s, { (trials (List.finRange 8) s).2 with
      pscore := Vector.ofFn fun i : Fin 8 => BitVec.ofNat 32 (trialOn i s).penalty
      bestPenalty := BitVec.ofNat 32 (trialOn (chosenMask s) s).penalty }) := by
    simp only [selectMask, scores, getD_map_finRange, chosenMask]
  have final : finalizeBody (.fixed (chosenMask s)) (trials (List.finRange 8) s).2 =
      finalizeBody (.fixed (chosenMask s)) s := by
    rw [finalizeBody_fixed, finalizeBody_fixed, same.trialOn_eq lo hi]
  rw [finalizeBody_eq_fixed, select, finalizeBody_fixed_scores, final]

end Sys2Proof.Machine
end

section
/-! PROOF. FINALIZE with a fixed mask and with automatic selection (R262 to R264). -/
namespace Sys2Proof.Machine

/-! ### FINALIZE with a fixed mask (R263) -/

theorem exec_finalize {s : State} {m : Int} {choice : MaskChoice} (phase : s.phase = .data)
    (mask : maskChoice m = some choice) : exec (.finalize m) s = complete (finalizeBody choice s) := by
  simp only [exec, execFinalize, if_pos phase, mask]

/-- What FINALIZE with a fixed mask leaves. -/
theorem exec_finalize_fixed {s : State} (phase : s.phase = .data) (m : Fin 8) :
    exec (.finalize (m.val : Int)) s = .next { s with
      gridM := (drawVersion (trialOn m s)).gridM, gridF := Grid.clear, mask := some m, phase := .final, err := .ok,
      pend := none } := by
  rw [exec_finalize phase (maskChoice_val m), finalizeBody_fixed_frame]
  rfl

theorem get_drawVersion_of_not_versionCell {s : State} {x y : Nat}
    (h : ¬isVersionCell s.size.toNat s.version.toNat x y) : (drawVersion s).gridM.get x y = s.gridM.get x y :=
  (get_drawAll_of_not_covers (mt (covers_versionWrites _ _ _ _).1 h) s.canvas).1

/-- Settles O40: the draws leave the bits of the format and of the version, which share no cell, and elsewhere the mask
decides. -/
theorem finalizeAppliesFixedMask : Obligations.FinalizeAppliesFixedMask := by
  unfold Obligations.FinalizeAppliesFixedMask
  intro s m configured phase
  obtain ⟨lo, hi⟩ := configured.size_bounds
  obtain ⟨copies, dark⟩ := get_drawAll_formatWrites lo hi (formatBits s.ecl m) (applyMask m s).canvas
  have format : ∀ {x y}, isFormatCell s.size.toNat x y →
      (drawVersion (trialOn m s)).gridM.get x y = (trialOn m s).gridM.get x y := fun hxy =>
    get_drawVersion_of_not_versionCell (s := trialOn m s) fun hv =>
      not_isFormatCell_of_isVersionCell (configured.size_of_version hv.1) hv hxy
  refine ⟨_, exec_finalize_fixed phase m, ?format, (format (.inr rfl)).trans dark, ?version, ?data,
    fun x y => Grid.get_clear x y, rfl⟩
  case format =>
    exact fun i lt => ⟨(format (.inl ⟨i, lt, .inl rfl⟩)).trans (copies i lt).1,
      (format (.inl ⟨i, lt, .inr rfl⟩)).trans (copies i lt).2⟩
  case version =>
    exact fun hv i lt => get_drawAll_versionWrites hv (configured.size_of_version hv) hi lt (trialOn m s).canvas
  case data =>
    exact fun x y hformat hversion => (get_drawVersion_of_not_versionCell (s := trialOn m s) hversion).trans
      ((get_drawFormat_of_not_formatCell (s := applyMask m s) m hformat).trans (get_applyMask_ite m hi x y))

/-! ### Automatic selection (R262, R264) -/

/-- What automatic selection leaves: the state of FINALIZE with the chosen mask, and the scores. -/
theorem PatternsInPlace.exec_finalize_auto {s : State} (h : PatternsInPlace s) (configured : Configured s)
    (phase : s.phase = .data) :
    exec (.finalize (-1)) s = .next { s with
      gridM := (drawVersion (trialOn (chosenMask s) s)).gridM, gridF := Grid.clear, mask := some (chosenMask s),
      phase := .final, err := .ok, pend := none,
      pscore := Vector.ofFn fun i : Fin 8 => BitVec.ofNat 32 (trialOn i s).penalty,
      bestPenalty := BitVec.ofNat 32 (trialOn (chosenMask s) s).penalty } := by
  obtain ⟨lo, hi⟩ := configured.size_bounds
  rw [exec_finalize phase maskChoice_auto, h.finalizeBody_auto lo hi, finalizeBody_fixed_frame]
  rfl

/-- Settles O41: the eight scores are those of the trials, and the first least of them is found. -/
theorem finalizeChoosesLeastPenalty : Obligations.FinalizeChoosesLeastPenalty := by
  unfold Obligations.FinalizeChoosesLeastPenalty
  intro s configured phase patterns
  have fits : ∀ i, (BitVec.ofNat 32 (trialOn i s).penalty).toNat = (trialOn i s).penalty := fun i =>
    toNat_ofNat_penalty (s := trialOn i s) configured.size_bounds.2
  have best := bestMask_spec (fun i => (trialOn i s).penalty) (b := chosenMask s) rfl
  refine ⟨_, chosenMask s, patterns.exec_finalize_auto configured phase, rfl, rfl, fits (chosenMask s), fun i => ?_,
    fun i => (best i).1, fun i => (best i).2, exec_finalize_fixed phase (chosenMask s)⟩
  simpa using fits i

/-- Where the version bits stand already, drawing them changes no module. -/
theorem VersionBitsDrawn.drawVersion_gridM {s : State} (h : VersionBitsDrawn s) (configured : Configured s) :
    (drawVersion s).gridM = s.gridM := by
  refine Grid.ext_get fun x y => ?_
  by_cases hxy : isVersionCell s.size.toNat s.version.toNat x y
  · obtain ⟨hv, i, lt, hxy⟩ := hxy
    obtain ⟨right, bottom⟩ := get_drawAll_versionWrites hv (configured.size_of_version hv) configured.size_bounds.2 lt
      s.canvas
    obtain ⟨right', bottom'⟩ := h hv i lt
    rcases hxy with hxy | hxy <;> cases hxy
    · exact right.trans right'.symm
    · exact bottom.trans bottom'.symm
  · exact get_drawVersion_of_not_versionCell hxy

/-- A trial leaves the version bits: its mask leaves function cells alone, and its format bits stand elsewhere. -/
theorem PatternsInPlace.versionBitsDrawn_trialOn {s : State} (h : PatternsInPlace s) (configured : Configured s)
    (k : Fin 8) : VersionBitsDrawn (trialOn k s) :=
  h.versionBitsDrawn.of_same_cells rfl rfl fun _ _ hxy =>
    (get_drawFormat_of_not_formatCell (s := applyMask k s) k
      (not_isFormatCell_of_isVersionCell (configured.size_of_version hxy.1) hxy)).trans
        (get_applyMask_of_function k configured.size_bounds.2 (h.gridF_versionCell hxy))

/-- The finished symbol has the modules of the trial of its mask. -/
theorem PatternsInPlace.drawVersion_trialOn_gridM {s : State} (h : PatternsInPlace s) (configured : Configured s)
    (k : Fin 8) : (drawVersion (trialOn k s)).gridM = (trialOn k s).gridM := by
  have registers : (trialOn k s).symbolRegs = s.symbolRegs := by simp [State.symbolRegs, trialOn, drawFormat_eq]
  exact (h.versionBitsDrawn_trialOn configured k).drawVersion_gridM ((configured_congr registers).2 configured)

/-- Settles O42: the finished symbol has the modules of the best trial, so it has that trial's score. -/
theorem finishedScoreIsBestPenalty : Obligations.FinishedScoreIsBestPenalty := by
  unfold Obligations.FinishedScoreIsBestPenalty
  intro s configured phase patterns
  have finished := patterns.exec_finalize_auto configured phase
  rw [patterns.drawVersion_trialOn_gridM configured] at finished
  have fits := toNat_ofNat_penalty (s := trialOn (chosenMask s) s) configured.size_bounds.2
  exact ⟨_, _, finished, fits.symm, exec_penalty nofun, rfl⟩

end Sys2Proof.Machine
end

section
/-! PROOF. ENCODE, GET_MODULE and the finished symbol (R290 to R293). -/
namespace Sys2Proof.Machine

/-! ### GET_MODULE (R291) -/

/-- A coordinate of the symbol is its own index. -/
theorem coordinate_of_lt {size a : Nat} (h : a < size) : coordinate size (a : Int) = some a := by simp [coordinate, h]

theorem coordinate_of_outside {size : Nat} {v : Int} (h : v < 0 ∨ (size : Int) ≤ v) : coordinate size v = none :=
  if_neg (by omega)

theorem moduleAt_of_inside {s : State} {a b : Nat} (ha : a < s.size.toNat) (hb : b < s.size.toNat) :
    moduleAt s a b = s.gridM.get a b := by
  simp only [moduleAt, coordinate_of_lt ha, coordinate_of_lt hb]

theorem moduleAt_of_outside {s : State} {x y : Int}
    (h : x < 0 ∨ (s.size.toNat : Int) ≤ x ∨ y < 0 ∨ (s.size.toNat : Int) ≤ y) : moduleAt s x y = false := by
  obtain hx | hy : (x < 0 ∨ (s.size.toNat : Int) ≤ x) ∨ y < 0 ∨ (s.size.toNat : Int) ≤ y := by rwa [or_assoc]
  · simp only [moduleAt, coordinate_of_outside hx]
  · simp only [moduleAt, coordinate_of_outside hy]
    cases coordinate s.size.toNat x <;> rfl

/-- Settles O45: RESULT is the module as a number, and `moduleAt` says which module that is. -/
theorem getModuleReadsMatrix : Obligations.GetModuleReadsMatrix := by
  unfold Obligations.GetModuleReadsMatrix
  intro s x y
  refine ⟨_, rfl, ?inside, ?outside, rfl⟩
  case inside =>
    rintro a b rfl rfl ha hb
    rw [moduleAt_of_inside ha hb]
    cases s.gridM.get a b <;> rfl
  case outside =>
    intro h
    rw [moduleAt_of_outside h]
    rfl

/-! ### The finished symbol (R293) -/

/-- Settles O16: the checks of a completed command rule out PHASE 6 for every command but these six, and the body of
each but CONFIG leaves M and PHASE. -/
theorem finishedSymbolIsReadOnly : Obligations.FinishedSymbolIsReadOnly := by
  unfold Obligations.FinishedSymbolIsReadOnly
  intro i s t final h ok
  obtain ⟨e, he, -, rfl⟩ | ⟨u, hc, rfl⟩ := exec_next h
  · exact absurd ok he
  cases hc with
  | config e => exact .inl ⟨_, e, rfl⟩
  | gfMul | rsDivisor | rsRemainder | penalty | getModule => exact .inr ⟨rfl, final, by simp⟩
  | redrawFormat phase => simp [final] at phase
  | eccInterleave phase | drawTiming phase | drawFinders phase | drawAlignment phase | drawFormat phase
  | drawVersion phase | drawFunctionPatterns phase | drawCodewords phase | applyMask phase | undoMask phase
  | finalize phase | encodeSymbol phase => exact absurd (final.symm.trans phase) (by decide)

/-! ### ENCODE (R290) -/

/-- `s` as a completed command leaves it (R14), with FUNC_DONE and PHASE as given. -/
def State.completedAt (done : BitVec 5) (phase : Phase) (s : State) : State :=
  { s with funcDone := done, phase := phase, err := .ok, pend := none }

theorem complete_completedAt (done : BitVec 5) (phase : Phase) (s : State) :
    complete { s with funcDone := done, phase := phase } = .next (s.completedAt done phase) := rfl

/-- The trials read neither FUNC_DONE, PHASE, ERR nor PEND. -/
theorem trials_completedAt (done : BitVec 5) (phase : Phase) (is : List (Fin 8)) (s : State) :
    trials is (s.completedAt done phase) = ((trials is s).1, (trials is s).2.completedAt done phase) := by
  induction is generalizing s with
  | nil => rfl
  | cons i is ih =>
    have pass : trialPass i (s.completedAt done phase) =
        ((trialPass i s).1, (trialPass i s).2.completedAt done phase) := rfl
    simp only [trials, pass, ih]

theorem selectMask_completedAt (done : BitVec 5) (phase : Phase) (choice : MaskChoice) (s : State) :
    selectMask choice (s.completedAt done phase) =
      ((selectMask choice s).1, (selectMask choice s).2.completedAt done phase) := by
  cases choice with
  | fixed k => rfl
  | auto =>
    simp only [selectMask, trials_completedAt]
    rfl

/-- FINALIZE reads neither FUNC_DONE, PHASE, ERR nor PEND, and of these it writes PHASE. -/
theorem finalizeBody_completedAt (done : BitVec 5) (phase : Phase) (choice : MaskChoice) (s : State) :
    finalizeBody choice (s.completedAt done phase) = (finalizeBody choice s).completedAt done .final := by
  simp only [finalizeBody, selectMask_completedAt]
  rfl

theorem exec_encodeSymbol {s : State} {m : Int} {choice : MaskChoice} {data : List Byte}
    (phase : s.phase = .configured) (done : s.funcDone = 0b00000) (mask : maskChoice m = some choice)
    (length : s.dataLen = s.ndc) (written : s.dataBytes 0 s.ndc.toNat = some data) :
    exec (.encodeSymbol m) s = complete (encodeBody choice data s) := by
  simp only [exec, execEncodeSymbol, if_pos (State.drawsDone_iff.2 ⟨phase, done⟩), mask, withDataCodewords,
    lengthError_eq_none.2 length, written]

/-- A command that answers with ERR clear goes on to the rest of the list. -/
theorem succeeds_cons_of_next {i : Instr} {is : List Instr} {s t : State} (h : exec i s = .next t) (ok : t.err = .ok) :
    succeeds (i :: is) s = succeeds is t := by
  simp only [succeeds, h, if_pos ok]

theorem exec_eccInterleave_completedAt {s : State} {data : List Byte} (length : s.dataLen = s.ndc)
    (written : s.dataBytes 0 s.ndc.toNat = some data) (done : BitVec 5) :
    exec .eccInterleave (s.completedAt done .fixed) = .next ((eccBody data s).completedAt done .ecc) :=
  (exec_eccInterleave (s := s.completedAt done .fixed) rfl length written).trans rfl

theorem exec_drawCodewords_completedAt (s : State) (done : BitVec 5) :
    exec .drawCodewords (s.completedAt done .ecc) = .next ((placeCodewords s).completedAt done .data) :=
  (exec_drawCodewords (s := s.completedAt done .ecc) rfl).trans rfl

theorem exec_finalize_completedAt {m : Int} {choice : MaskChoice} (mask : maskChoice m = some choice) (s : State)
    (done : BitVec 5) :
    exec (.finalize m) (s.completedAt done .data) = .next ((finalizeBody choice s).completedAt done .final) := by
  rw [exec_finalize (s := s.completedAt done .data) rfl mask, finalizeBody_completedAt]
  rfl

/-- Where ENCODE completes, the four commands do, each in the phase that the one before it leaves, and their bodies are
those of ENCODE in order. -/
theorem succeeds_pipeline {s : State} {m : Int} {choice : MaskChoice} {data : List Byte}
    (phase : s.phase = .configured) (done : s.funcDone = 0b00000) (mask : maskChoice m = some choice)
    (length : s.dataLen = s.ndc) (written : s.dataBytes 0 s.ndc.toNat = some data) :
    succeeds [.drawFunctionPatterns, .eccInterleave, .drawCodewords, .finalize m] s =
      some ((encodeBody choice data s).completedAt 0b11111 .final) := by
  have patterns : exec .drawFunctionPatterns s = .next ((drawFunctionPatterns s).completedAt 0b11111 .fixed) :=
    (exec_drawFunctionPatterns phase done).trans (complete_completedAt _ _ _)
  have interleave : exec .eccInterleave ((drawFunctionPatterns s).completedAt 0b11111 .fixed) =
      .next ((eccBody data (drawFunctionPatterns s)).completedAt 0b11111 .ecc) :=
    exec_eccInterleave_completedAt (by simpa [drawFunctionPatterns_eq] using length)
      (by simpa [drawFunctionPatterns_eq, State.dataBytes] using written) _
  rw [succeeds_cons_of_next patterns rfl, succeeds_cons_of_next interleave rfl,
    succeeds_cons_of_next (exec_drawCodewords_completedAt _ _) rfl,
    succeeds_cons_of_next (exec_finalize_completedAt mask _ _) rfl]
  simp only [succeeds, State.completedAt, encodeBody]

/-- The written check of R89 gives the data codewords. -/
theorem exists_dataBytes_of_dataWritten {s : State} {m : Int} (h : dataWritten (.encodeSymbol m) s = true) :
    ∃ data, s.dataBytes 0 s.ndc.toNat = some data := by
  rw [← Option.isSome_iff_exists, ← Option.ne_none_iff_isSome]
  intro unwritten
  obtain ⟨k, lt, hk⟩ := Memory.readBytes_eq_none.1 unwritten
  have read := List.all_eq_true.1 h k (List.mem_range.2 lt)
  rw [dataRange, hk] at read
  cases read

theorem exists_maskChoice {m : Int} (lo : -1 ≤ m) (hi : m ≤ 7) : ∃ choice, maskChoice m = some choice :=
  Option.ne_none_iff_exists'.1 (mt maskChoice_eq_none.1 (not_not.2 ⟨lo, hi⟩))

/-- With a mask operand from 0 up ENCODE draws that mask and scores nothing (R263). -/
theorem encodeBody_of_nonneg {m : Int} {choice : MaskChoice} (nonneg : 0 ≤ m) (mask : maskChoice m = some choice)
    (data : List Byte) (s : State) :
    (maskCode (encodeBody choice data s).mask : Int) = m ∧ (encodeBody choice data s).pscore = s.pscore ∧
      (encodeBody choice data s).bestPenalty = s.bestPenalty := by
  rw [maskChoice, if_neg (by omega)] at mask
  obtain ⟨k, index, rfl⟩ := Option.map_eq_some_iff.1 mask
  rw [encodeBody, finalizeBody_fixed_frame, drawFunctionPatterns_eq, eccBody_draw]
  exact ⟨(maskIndex_eq_some.1 index).symm, by simp, by simp⟩

/-- Settles O44: ENCODE and the pipeline complete with the same body, and its frame is `encodeBody_frame`. -/
theorem encodeIsThePipeline : Obligations.EncodeIsThePipeline := by
  unfold Obligations.EncodeIsThePipeline
  intro s m phase done lo hi length written
  obtain ⟨data, hdata⟩ := exists_dataBytes_of_dataWritten written
  obtain ⟨choice, mask⟩ := exists_maskChoice lo hi
  refine ⟨(encodeBody choice data s).completedAt 0b11111 .final, ?_, succeeds_pipeline phase done mask length hdata,
    fun nonneg => encodeBody_of_nonneg nonneg mask data s, rfl, ?_⟩
  · exact exec_encodeSymbol phase done mask length hdata
  · obtain ⟨k, g, p, b, frame⟩ := encodeBody_frame choice data s
    rw [frame]
    rfl

end Sys2Proof.Machine
end

section
/-! SUPPORT. The outcome of every command by the checks of R312. -/
namespace Sys2Proof.Machine

/-! ### The checks (R312) -/

/-- The bytes that a command reads all have their written bits set exactly when they have values (R89). -/
theorem dataWritten_eq (i : Instr) (s : State) :
    dataWritten i s = (s.dataBytes (dataRange i s).1 (dataRange i s).2).isSome := by
  rw [Bool.eq_iff_iff, ← not_iff_not, Option.not_isSome_iff_eq_none, State.dataBytes, Memory.readBytes_eq_none]
  simp [dataWritten]

/-- Checks 5 and 6 are the length check of R178. -/
theorem firstError_eq (i : Instr) (s : State) :
    firstError i s =
      if legalPhase i s = false then some .sequenceError
      else if inRange i = false then some .rangeError
      else if trialAgrees i s = false then some .sequenceError
      else if comparesLength i = true then lengthError s else none := by
  cases hc : comparesLength i <;> simp [firstError, lengthError, hc]

theorem firstError_eq_none_iff {i : Instr} {s : State} :
    firstError i s = none ↔ legalPhase i s = true ∧ inRange i = true ∧ trialAgrees i s = true ∧
      (comparesLength i = true → s.dataLen = s.ndc) := by
  rw [firstError_eq, ← lengthError_eq_none]
  split_ifs <;> simp_all

/-! ### Where a command stops with an error -/

/-- A legal command with an operand out of range raises RangeError (R113, R312). -/
theorem exec_of_not_inRange {i : Instr} {s : State} (hi : i.wellFormed = true) (legal : legalPhase i s = true)
    (range : inRange i = false) : exec i s = raise .rangeError s := by
  cases i with
  | rsDivisor degree =>
    have := of_decide_eq_true hi
    have := of_decide_eq_false range
    exact if_pos (by omega)
  | rsRemainder off len =>
    have out := of_decide_eq_false range
    exact (if_neg (by simpa [legalPhase] using legal)).trans (if_pos (Nat.not_le.1 out))
  | config v e =>
    have := of_decide_eq_false range
    exact if_pos (by omega)
  | drawFormat m | applyMask m =>
    have noIndex := maskIndex_eq_none.2 (of_decide_eq_false range)
    exact (if_pos legal).trans (by rw [noIndex])
  | finalize m =>
    have noChoice := maskChoice_eq_none.2 (of_decide_eq_false range)
    exact (if_pos (by simpa [legalPhase] using legal)).trans (by rw [noChoice])
  | encodeSymbol m =>
    have noChoice := maskChoice_eq_none.2 (of_decide_eq_false range)
    exact (if_pos legal).trans (by rw [noChoice])
  | _ => cases range

/-- The trial mask that the code in TRIAL names (R34). -/
theorem maskCode_eq_iff {trial : Option (Fin 8)} {k : Fin 8} : maskCode trial = k.val ↔ trial = some k := by
  cases trial with
  | none => simp [maskCode]; omega
  | some m => simp [maskCode, Fin.ext_iff]

/-- APPLY_MASK of another mask than the one on trial raises SequenceError (R252, R312). -/
theorem exec_of_not_trialAgrees {i : Instr} {s : State} (range : inRange i = true) (trial : trialAgrees i s = false) :
    exec i s = raise .sequenceError s := by
  cases i with
  | applyMask m =>
    obtain ⟨lo, hi⟩ := of_decide_eq_true range
    obtain ⟨phase, other⟩ : s.phase = .trial ∧ (maskCode s.trial : Int) ≠ m := by simpa [trialAgrees] using trial
    exact exec_applyMask_of_other_trial phase other lo hi
  | _ => cases trial

theorem withDataCodewords_of_lengthError {s : State} {e : ErrCode} (length : lengthError s = some e)
    (k : List Byte → State) : withDataCodewords s k = raise e s := by
  simp only [withDataCodewords, length]

theorem withDataCodewords_of_unwritten {s : State} (length : s.dataLen = s.ndc)
    (unwritten : s.dataBytes 0 s.ndc.toNat = none) (k : List Byte → State) :
    withDataCodewords s k = .fault .unwrittenDataRead := by
  simp only [withDataCodewords, lengthError_eq_none.2 length, unwritten]

theorem withDataCodewords_of_written {s : State} {data : List Byte} (length : s.dataLen = s.ndc)
    (written : s.dataBytes 0 s.ndc.toNat = some data) (k : List Byte → State) :
    withDataCodewords s k = complete (k data) := by
  simp only [withDataCodewords, lengthError_eq_none.2 length, written]

/-- A command that compares DATA_LEN with NDC, its other checks passed, goes on to read the data codewords (R178). -/
theorem exec_eq_withDataCodewords {i : Instr} {s : State} (legal : legalPhase i s = true) (range : inRange i = true)
    (compares : comparesLength i = true) : ∃ k, exec i s = withDataCodewords s k := by
  cases i with
  | eccInterleave => exact ⟨_, if_pos (by simpa [legalPhase] using legal)⟩
  | encodeSymbol m =>
    obtain ⟨lo, hi⟩ := of_decide_eq_true range
    obtain ⟨choice, mask⟩ := exists_maskChoice lo hi
    exact ⟨fun data => encodeBody choice data s, (if_pos legal).trans (by rw [mask])⟩
  | _ => cases compares

/-- The first error in the order of R312 is the one raised. -/
theorem exec_of_firstError {i : Instr} {s : State} {e : ErrCode} (hi : i.wellFormed = true)
    (h : firstError i s = some e) : exec i s = raise e s := by
  rw [firstError_eq] at h
  split_ifs at h with legal range trial compares
  · cases h
    exact exec_of_not_legal legal
  · cases h
    exact exec_of_not_inRange hi (by simpa using legal) range
  · cases h
    exact exec_of_not_trialAgrees (by simpa using range) trial
  · obtain ⟨k, hk⟩ := exec_eq_withDataCodewords (by simpa using legal) (by simpa using range) compares
    exact hk.trans (withDataCodewords_of_lengthError h k)

/-! ### Where a command completes or stops on a byte never written -/

/-- With no error a command reads its DATA bytes: it stops where one was never written (R89). -/
theorem exec_of_unwritten {i : Instr} {s : State} (ok : firstError i s = none) (unwritten : dataWritten i s = false) :
    exec i s = .fault .unwrittenDataRead := by
  obtain ⟨legal, range, -, length⟩ := firstError_eq_none_iff.1 ok
  have read : s.dataBytes (dataRange i s).1 (dataRange i s).2 = none := by simpa [dataWritten_eq] using unwritten
  cases i with
  | rsRemainder off len =>
    have deg : s.deg ≠ 0 := by simpa [legalPhase] using legal
    have inside : off + len ≤ 2956 := of_decide_eq_true range
    have noBytes : s.dataBytes off len = none := read
    exact (if_neg deg).trans ((if_neg (Nat.not_lt.2 inside)).trans (by simp only [noBytes]))
  | eccInterleave | encodeSymbol =>
    obtain ⟨k, hk⟩ := exec_eq_withDataCodewords legal range rfl
    exact hk.trans (withDataCodewords_of_unwritten (length rfl) read k)
  | _ => cases unwritten

/-- With no error and its DATA bytes written a command completes (R312). -/
theorem exec_of_passed {i : Instr} {s : State} (ok : firstError i s = none) (written : dataWritten i s = true) :
    ∃ u, exec i s = complete u := by
  obtain ⟨legal, range, trial, length⟩ := firstError_eq_none_iff.1 ok
  obtain ⟨data, read⟩ := Option.isSome_iff_exists.1 (dataWritten_eq i s ▸ written)
  cases i with
  | gfMul | getModule => exact ⟨_, rfl⟩
  | rsDivisor degree => exact ⟨_, exec_rsDivisor (Nat.pos_iff_ne_zero.1 (of_decide_eq_true range).1) s⟩
  | rsRemainder => exact ⟨_, exec_rsRemainder (by simpa [legalPhase] using legal) (of_decide_eq_true range) read⟩
  | config v e =>
    obtain ⟨pos, le⟩ := of_decide_eq_true range
    exact ⟨_, exec_config pos le e s⟩
  | drawFormat m =>
    obtain ⟨k, index⟩ := Option.ne_none_iff_exists'.1 (mt maskIndex_eq_none.1 (not_not.2 (of_decide_eq_true range)))
    exact ⟨_, exec_drawFormat legal index⟩
  | applyMask m =>
    obtain ⟨k, index⟩ := Option.ne_none_iff_exists'.1 (mt maskIndex_eq_none.1 (not_not.2 (of_decide_eq_true range)))
    obtain rfl := maskIndex_eq_some.1 index
    by_cases phase : s.phase = .data
    · exact ⟨_, exec_applyMask_of_data phase k⟩
    · have other : s.phase = .trial := by simpa [legalPhase, phase] using legal
      have same : maskCode s.trial = k.val := by simpa [trialAgrees, other] using trial
      exact ⟨_, exec_applyMask_of_trial other (maskCode_eq_iff.1 same)⟩
  | penalty => exact ⟨_, exec_penalty (by simpa [legalPhase] using legal)⟩
  | eccInterleave | encodeSymbol =>
    obtain ⟨k, hk⟩ := exec_eq_withDataCodewords legal range rfl
    exact ⟨_, hk.trans (withDataCodewords_of_written (length rfl) read k)⟩
  | finalize m =>
    obtain ⟨lo, hi⟩ := of_decide_eq_true range
    obtain ⟨choice, mask⟩ := exists_maskChoice lo hi
    exact ⟨_, exec_finalize (by simpa [legalPhase] using legal) mask⟩
  | drawCodewords => exact ⟨_, if_pos (by simpa [legalPhase] using legal)⟩
  | drawTiming | drawFinders | drawAlignment | drawVersion | drawFunctionPatterns => exact ⟨_, if_pos legal⟩

end Sys2Proof.Machine
end

section
/-! PROOF. The rules of errors (R312 to R314). -/
namespace Sys2Proof.Machine

/-- Settles O11: an illegal word raises IllegalCommand, and a legal one is a well-formed command, whose outcome the
checks of R312 decide. -/
theorem firstErrorDecidesOutcome : Obligations.FirstErrorDecidesOutcome := by
  unfold Obligations.FirstErrorDecidesOutcome
  intro w s
  refine ⟨fun e illegal => by simp [runWord, illegal], fun i legal => ?_⟩
  have run : runWord w s = exec i s := by simp only [runWord, legal]
  rw [run]
  refine ⟨fun e => exec_of_firstError (wellFormed_of_decode legal), fun ok written => ?_, exec_of_unwritten⟩
  obtain ⟨u, completes⟩ := exec_of_passed ok written
  exact ⟨_, completes, rfl, rfl⟩

/-- Settles O12: a command that completes leaves ERR clear, so one that does not has only raised its error. -/
theorem errorsLeaveAllElseUnchanged : Obligations.ErrorsLeaveAllElseUnchanged := by
  unfold Obligations.ErrorsLeaveAllElseUnchanged
  intro i s t h error
  obtain ⟨e, -, -, rfl⟩ | ⟨u, -, rfl⟩ := exec_next h
  · rfl
  · exact absurd rfl error

/-! ### No command reads ERR (R314) -/

/-- FINALIZE hands COMPLETE a state in which ERR and PEND could as well have been cleared before. -/
theorem complete_finalizeBody (choice : MaskChoice) (s : State) :
    complete (finalizeBody choice s) = .next (finalizeBody choice (s.completedAt s.funcDone s.phase)) := by
  obtain ⟨k, m, p, b, frame⟩ := finalizeBody_frame choice s
  rw [finalizeBody_completedAt, frame]
  rfl

/-- ENCODE ends as FINALIZE does in PHASE 4, with every function pattern drawn (R290). -/
theorem complete_encodeBody (choice : MaskChoice) (data : List Byte) (s : State) :
    complete (encodeBody choice data s) = .next (finalizeBody choice
      ((placeCodewords (eccBody data (drawFunctionPatterns s))).completedAt 0b11111 .data)) := by
  rw [finalizeBody_completedAt]
  rfl

/-- The checks of a command do not look at ERR, nor does its body; only the trials of FINALIZE and ENCODE are a
recursion that passes ERR on. -/
theorem exec_setErr (i : Instr) (s : State) (e : ErrCode) : exec i { s with err := e } = exec i s := by
  cases i with
  | drawFormat m =>
    simp only [exec, execDrawFormat, apply_ite complete]
    rfl
  | finalize m =>
    have body : ∀ choice, complete (finalizeBody choice { s with err := e }) = complete (finalizeBody choice s) :=
      fun choice => by rw [complete_finalizeBody, complete_finalizeBody]; rfl
    simp only [exec, execFinalize, body]
    rfl
  | encodeSymbol m =>
    have body : ∀ choice data,
        complete (encodeBody choice data { s with err := e }) = complete (encodeBody choice data s) :=
      fun choice data => by rw [complete_encodeBody, complete_encodeBody]; rfl
    simp only [exec, execEncodeSymbol, withDataCodewords, body]
    rfl
  | _ => rfl

/-- Settles O13: no command reads ERR, and of the errors none raises the reserved code 6. -/
theorem commandsWriteErrAndNeverReadIt : Obligations.CommandsWriteErrAndNeverReadIt := by
  unfold Obligations.CommandsWriteErrAndNeverReadIt
  refine fun i s e => ⟨exec_setErr i s e, fun t h => ⟨pend_of_exec_next h, ?_⟩⟩
  obtain ⟨e, -, reserved, rfl⟩ | ⟨u, -, rfl⟩ := exec_next h
  · exact reserved
  · simp

end Sys2Proof.Machine
end

section
/-! PROOF. The step: a pending command is run (R318), and the faults that stop a step (R319). -/
namespace Sys2Proof.Machine

/-! ### The pending command is run (R318) -/

/-- Settles O6: the engine has the turn, and the word is illegal or its command's. -/
theorem stepRunsPendingCommand : Obligations.StepRunsPendingCommand := by
  unfold Obligations.StepRunsPendingCommand
  intro s w hosts pending sched
  rw [step_of_pending hosts pending sched]
  exact ⟨fun i legal => by simp only [runWord, legal], fun e illegal => by simp only [runWord, illegal, raise]⟩

/-- Settles O7: a placed command is pending with the engine next, and its word decodes to it. -/
theorem placedCommandRunsNext : Obligations.PlacedCommandRunsNext := by
  unfold Obligations.PlacedCommandRunsNext
  intro s i hosts hi
  have small : (encode i).toNat % 2 ^ 32 < 2 ^ 32 := Nat.mod_lt _ (by decide)
  have word : BitVec.ofNat 32 ((encode i).toNat % 2 ^ 32) = encode i := by
    rw [Nat.mod_eq_of_lt (encode i).isLt, BitVec.ofNat_toNat, BitVec.setWidth_eq]
  have placed : step { s with pend := some (encode i), sched := .engine :: s.sched } =
      runWord (encode i) { s with pend := some (encode i) } :=
    step_of_pending hosts rfl (.inr ⟨s.sched, rfl⟩)
  constructor
  · rw [decodeTableWord, if_pos small, word, decode_encode hi]
    rfl
  · rw [State.withFetchWord, placeCommand, word, placed, runWord, decode_encode hi]

/-! ### A pending command is taken (R318) -/

theorem step_eq_moveOf {s : State} (hosts : s.hosts ≤ 1) :
    step s = moveOf (takeTurn s).1 { s with sched := (takeTurn s).2 } :=
  if_neg (Nat.not_lt.2 hosts)

/-- With no event left the host gives its turn to the engine, which runs the pending word (log 2). -/
theorem step_of_pending_of_no_input {s : State} {w : Word} {rest : List Agent} (hosts : s.hosts ≤ 1)
    (pending : s.pend = some w) (sched : s.sched = .host :: rest) (inputs : s.inputs = []) :
    step s = runWord w { s with sched := rest } := by
  have turn : takeTurn s = (.engine, rest) := by simp [takeTurn, sched, inputs]
  rw [step_eq_moveOf hosts, turn]
  simp [moveOf, engineStep, pending]

/-- With an event left and the turn the host takes the event (log 1, log 2). -/
theorem step_of_host {s : State} {inp : Input} {more : List Input} {rest : List Agent} (hosts : s.hosts ≤ 1)
    (sched : s.sched = .host :: rest) (inputs : s.inputs = inp :: more) :
    step s = takeInput inp { s with sched := rest, inputs := more } := by
  have turn : takeTurn s = (.host, rest) := by simp [takeTurn, sched, inputs]
  rw [step_eq_moveOf hosts, turn]
  simp [moveOf, hostStep, inputs]

/-- A read of STATUS while a command is pending is logged, and a POLL stays in the queue (R119, R347). -/
theorem takeInput_of_poll {s : State} {inp : Input} (busy : s.busy = true) (poll : inp = .poll ∨ inp = .read 0x0004 4) :
    ∃ queue ∈ [s.inputs, inp :: s.inputs],
      takeInput inp s = .next { s with inputs := queue, readLog := statusWord s :: s.readLog } := by
  obtain rfl | rfl := poll
  · exact ⟨.poll :: s.inputs, by simp, by rw [takeInput, if_pos busy]; rfl⟩
  · refine ⟨s.inputs, by simp, ?_⟩
    have status : hostRead 0x0004 4 s = .ok (statusWord s) := by
      have access : accessError 0x0004 4 = false := rfl
      have register : isRegister 0x0004 = true := rfl
      simp [hostRead, access, register, registerValue]
    simp only [takeInput, status]
    rfl

/-- A host turn while a command is pending and the host only reads STATUS. -/
theorem step_of_host_poll {s : State} {inp : Input} {more : List Input} {rest : List Agent} (hosts : s.hosts ≤ 1)
    (busy : s.busy = true) (polls : OnlyPolls s) (sched : s.sched = .host :: rest) (inputs : s.inputs = inp :: more) :
    ∃ queue log, step s = .next { s with inputs := queue, sched := rest, readLog := log } ∧
      OnlyPolls { s with inputs := queue, sched := rest, readLog := log } := by
  rw [step_of_host hosts sched inputs]
  rw [OnlyPolls, inputs] at polls
  obtain ⟨queue, left, next⟩ := takeInput_of_poll (s := { s with sched := rest, inputs := more }) busy
    (polls inp List.mem_cons_self)
  refine ⟨queue, _, next, fun i hi => polls i ?_⟩
  simp only [List.mem_cons, List.not_mem_nil, or_false] at left
  obtain rfl | rfl := left
  · exact List.mem_cons_of_mem _ hi
  · exact hi

/-- After at most `n` steps, which change only the host's queue, schedule and log, the next step runs the word `w`. -/
def TakenWithin (n : Nat) (w : Word) (s : State) : Prop :=
  ∃ k ≤ n, ∃ u : State, Host.Core.run core k s = .next u ∧
    u = { s with inputs := u.inputs, sched := u.sched, readLog := u.readLog } ∧
    step u = runWord w { u with sched := u.sched.tail }

theorem takenWithin_of_step {n : Nat} {w : Word} {s : State} (h : step s = runWord w { s with sched := s.sched.tail }) :
    TakenWithin n w s :=
  ⟨0, Nat.zero_le n, s, rfl, rfl, h⟩

theorem takenWithin_succ {n : Nat} {w : Word} {s : State} {queue : List Input} {rest : List Agent} {log : List Word}
    (next : step s = .next { s with inputs := queue, sched := rest, readLog := log })
    (h : TakenWithin n w { s with inputs := queue, sched := rest, readLog := log }) : TakenWithin (n + 1) w s := by
  obtain ⟨k, hk, u, run, frame, taken⟩ := h
  refine ⟨k + 1, Nat.succ_le_succ hk, u, ?_, frame, taken⟩
  simpa [Host.Core.run, core, next] using run

/-- By induction on the schedule: a turn of the engine runs the word, and a turn of the host reads STATUS or passes to
the engine. -/
theorem takenWithin_length_sched {s : State} {w : Word} (hosts : s.hosts ≤ 1) (pending : s.pend = some w)
    (polls : OnlyPolls s) : TakenWithin s.sched.length w s := by
  generalize hl : s.sched = sched
  induction sched generalizing s with
  | nil => exact takenWithin_of_step (step_of_pending hosts pending (.inl hl))
  | cons agent rest ih =>
    cases agent with
    | engine => exact takenWithin_of_step (step_of_pending hosts pending (.inr ⟨rest, hl⟩))
    | host =>
      cases inputs : s.inputs with
      | nil =>
        refine takenWithin_of_step ?_
        rw [step_of_pending_of_no_input hosts pending hl inputs, hl, List.tail_cons]
      | cons inp more =>
        have busy : s.busy = true := by simp [State.busy, pending]
        obtain ⟨queue, log, next, polls'⟩ := step_of_host_poll hosts busy polls hl inputs
        have taken : TakenWithin rest.length w { s with inputs := queue, sched := rest, readLog := log } :=
          ih hosts pending polls' rfl
        exact takenWithin_succ next taken

/-- Settles O9: the schedule bounds the steps before the engine's turn. -/
theorem pendingCommandIsTaken : Obligations.PendingCommandIsTaken := by
  unfold Obligations.PendingCommandIsTaken
  exact fun s w => takenWithin_length_sched

/-! ### The faults that stop a step (R319) -/

/-- The causes of each fault of R319 in the state `s`. -/
inductive StopCause (s : State) : Fault → Prop
  | twoHosts (hosts : 1 < s.hosts) : StopCause s .twoHosts
  | readError {off n : Nat} {rest : List Input} (inputs : s.inputs = .read off n :: rest)
      (access : accessError off n = true) : StopCause s .hostAccessError
  | writeError {off n : Nat} {v : Word} {rest : List Input} (inputs : s.inputs = .write off n v :: rest)
      (access : accessError off n = true) : StopCause s .hostAccessError
  | readBusy {off n : Nat} {rest : List Input} (inputs : s.inputs = .read off n :: rest)
      (access : accessError off n = false) (busy : s.busy = true) (status : off ≠ 4) :
      StopCause s .hostProtocolViolation
  | writeBusy {off n : Nat} {v : Word} {rest : List Input} (inputs : s.inputs = .write off n v :: rest)
      (access : accessError off n = false) (busy : s.busy = true) : StopCause s .hostProtocolViolation
  | readUnwritten {off n : Nat} {rest : List Input} (inputs : s.inputs = .read off n :: rest)
      (unwritten : s.mem.readBytes off n = none) : StopCause s .unwrittenDataRead
  | commandUnwritten {w : Word} {i : Instr} (pending : s.pend = some w) (legal : decode w = .ok i)
      (ok : firstError i s = none) (unwritten : dataWritten i s = false) : StopCause s .unwrittenDataRead

/-- `o` is a next state, or a fault with its cause in `s`; so it is no refusal. -/
def StopsForCause (s : State) (o : Host.Outcome State Fault Refusal) : Prop :=
  (∃ t, o = .next t) ∨ ∃ f, o = .fault f ∧ StopCause s f

theorem runWord_stopsForCause {s : State} {w : Word} (pending : s.pend = some w) (rest : List Agent) :
    StopsForCause s (runWord w { s with sched := rest }) := by
  obtain ⟨illegal, legal⟩ := firstErrorDecidesOutcome w { s with sched := rest }
  cases hd : decode w with
  | error e => exact .inl ⟨_, illegal e hd⟩
  | ok i =>
    obtain ⟨error, completes, unwritten⟩ := legal i hd
    have sameError : firstError i { s with sched := rest } = firstError i s := rfl
    have sameData : dataWritten i { s with sched := rest } = dataWritten i s := rfl
    cases he : firstError i s with
    | some e => exact .inl ⟨_, error e he⟩
    | none =>
      cases hw : dataWritten i s with
      | true =>
        obtain ⟨t, next, -⟩ := completes he hw
        exact .inl ⟨t, next⟩
      | false => exact .inr ⟨_, unwritten he hw, .commandUnwritten pending hd he hw⟩

theorem takeInput_stopsForCause {s : State} {inp : Input} {more : List Input} (inputs : s.inputs = inp :: more)
    (rest : List Agent) : StopsForCause s (takeInput inp { s with sched := rest, inputs := more }) := by
  cases inp with
  | read off n =>
    simp only [takeInput]
    obtain ⟨access, hr⟩ | ⟨access, busy, status, hr⟩ | ⟨-, -, -, hr⟩ | ⟨-, -, -, unwritten, hr⟩ | ⟨_, -, -, -, -, hr⟩ :=
      hostRead_cases off n { s with sched := rest, inputs := more } <;> rw [hr]
    · exact .inr ⟨_, rfl, .readError inputs access⟩
    · exact .inr ⟨_, rfl, .readBusy inputs access busy status⟩
    · exact .inl ⟨_, rfl⟩
    · exact .inr ⟨_, rfl, .readUnwritten inputs unwritten⟩
    · exact .inl ⟨_, rfl⟩
  | write off n v =>
    simp only [takeInput]
    obtain ⟨access, hw⟩ | ⟨access, busy, hw⟩ | ⟨-, -, ⟨-, hw⟩ | ⟨-, hw⟩ | ⟨-, hw⟩ | ⟨-, -, -, hw⟩⟩ :=
      hostWrite_cases off n v { s with sched := rest, inputs := more } <;> rw [hw]
    · exact .inr ⟨_, rfl, .writeError inputs access⟩
    · exact .inr ⟨_, rfl, .writeBusy inputs access busy⟩
    all_goals exact .inl ⟨_, rfl⟩
  | poll =>
    simp only [takeInput]
    split <;> exact .inl ⟨_, rfl⟩
  | reset => exact .inl ⟨_, rfl⟩

/-- A step answers a next state, or stops with a fault that has its cause: it never refuses (R319). -/
theorem step_stopsForCause (s : State) : StopsForCause s (step s) := by
  by_cases hosts : 1 < s.hosts
  · exact .inr ⟨_, if_pos hosts, .twoHosts hosts⟩
  · rw [step_eq_moveOf (Nat.not_lt.1 hosts)]
    cases (takeTurn s).1 with
    | engine =>
      simp only [moveOf, engineStep]
      split
      · exact .inl ⟨_, rfl⟩
      · exact runWord_stopsForCause ‹_› _
    | host =>
      simp only [moveOf, hostStep]
      split
      · exact .inl ⟨_, rfl⟩
      · exact takeInput_stopsForCause ‹_› _

/-- A step stops with a fault for a cause of that fault. -/
theorem stopCause_of_step {s : State} {f : Fault} (h : step s = .fault f) : StopCause s f := by
  obtain ⟨t, next⟩ | ⟨g, stop, cause⟩ := step_stopsForCause s
  · cases next ▸ h
  · cases stop ▸ h
    exact cause

/-- Settles O17: each fault has its causes, and two hosts stop every step. -/
theorem stepStopsOnlyAsListed : Obligations.StepStopsOnlyAsListed := by
  unfold Obligations.StepStopsOnlyAsListed
  intro s
  refine ⟨fun r h => ?_, ⟨fun h => ?_, fun hosts => if_pos hosts⟩, fun h => ?_, fun h => ?_, fun h => ?_⟩
  · obtain ⟨t, next⟩ | ⟨f, stop, -⟩ := step_stopsForCause s
    · cases next ▸ h
    · cases stop ▸ h
  · cases stopCause_of_step h with
    | twoHosts hosts => exact hosts
  · cases stopCause_of_step h with
    | readError inputs access => exact ⟨_, _, 0, _, .inl inputs, access⟩
    | writeError inputs access => exact ⟨_, _, _, _, .inr inputs, access⟩
  · cases stopCause_of_step h with
    | readBusy inputs access busy status => exact ⟨busy, _, _, 0, _, .inl ⟨inputs, status⟩, access⟩
    | writeBusy inputs access busy => exact ⟨busy, _, _, _, _, .inr inputs, access⟩
  · cases stopCause_of_step h with
    | readUnwritten inputs unwritten => exact .inr ⟨_, _, _, inputs, Memory.readBytes_eq_none.1 unwritten⟩
    | commandUnwritten pending legal ok unwritten => exact .inl ⟨_, _, pending, legal, ok, unwritten⟩

end Sys2Proof.Machine
end

section
/-! PROOF. Reset and hazards (70_reset_and_hazards.md): what a pending command bars, what an idle machine does, and what
the platform's reset leaves. -/
namespace Sys2Proof.Machine

/-! ### Accesses while a command is pending (R347) -/

/-- A read of STATUS gives its value whether or not a command is pending (R90). -/
theorem hostRead_status (s : State) : hostRead 0x0004 4 s = .ok (statusWord s) := by
  have access : accessError 0x0004 4 = false := rfl
  have register : isRegister 0x0004 = true := rfl
  simp [hostRead, access, register, registerValue]

/-- Settles O54: STATUS passes the busy check of a read, and nothing passes that of a write. -/
theorem busyAllowsOnlyStatusReads : Obligations.BusyAllowsOnlyStatusReads := by
  unfold Obligations.BusyAllowsOnlyStatusReads
  intro s w v off n pending
  have busy : s.busy = true := by simp [State.busy, pending]
  refine ⟨⟨statusWord s, hostRead_status s, ?_⟩, fun access => ⟨?_, fun other => ?_⟩⟩
  · obtain ⟨shown, -⟩ := statusFieldsAreInPlace s
    exact shown.trans busy
  · simp [hostWrite, access, busy]
  · simp [hostRead, access, busy, other]

/-! ### The idle machine (R341) -/

/-- With no command pending, the empty schedule and no event left a step changes nothing (log 12). -/
theorem step_of_idle_of_no_input {s : State} (hosts : s.hosts ≤ 1) (idle : s.pend = none) (sched : s.sched = [])
    (inputs : s.inputs = []) : step s = .next s := by
  have turn : takeTurn s = (.host, s.sched) := by simp [takeTurn, sched, busy_of_pend_eq_none idle]
  have waits : hostStep s = .next s := by rw [hostStep, inputs]
  rw [step_eq_moveOf hosts, turn]
  exact waits

/-- Settles O8: the host has the turn, and it has an event left or none. -/
theorem idleMachineServesHost : Obligations.IdleMachineServesHost := by
  unfold Obligations.IdleMachineServesHost
  exact fun _ hosts idle sched =>
    ⟨step_of_idle_of_no_input hosts idle sched, fun _ _ => step_of_idle hosts idle sched⟩

/-! ### Reset (R340) -/

/-- The arrays after reset: DIV, REM and CW read 0, and no byte of DATA is written (R61, R340). -/
theorem Memory.read_reset :
    (∀ j < 256, read State.reset.mem (divBase + j) = some 0 ∧ read State.reset.mem (remBase + j) = some 0) ∧
    (∀ k < 3708, read State.reset.mem (cwBase + k) = some 0) ∧
    (∀ k < 2956, read State.reset.mem (dataBase + k) = none) := by
  obtain ⟨hdiv, hrem, hdata, hcw⟩ := bases_eq
  refine ⟨fun j hj => ⟨if_pos ?_, if_pos ?_⟩, fun k hk => if_pos ?_, fun k hk => if_neg ?_⟩
  · simp [inDiv, hj]
  · simp [inRem, hj]
  · simp [inCw, hk]
  · simp only [inDiv, inRem, inCw, Bool.or_eq_true, decide_eq_true_eq, hdiv, hrem, hdata, hcw, Config.rsArrayBytes,
      Config.cwArrayBytes]
    omega

/-- Settles O56: the arrays and the grids cell by cell, every other field as the reset state has it. -/
theorem resetSetsEveryValue : Obligations.ResetSetsEveryValue := by
  unfold Obligations.ResetSetsEveryValue
  intro s
  obtain ⟨divRem, cw, data⟩ := Memory.read_reset
  have status : statusWord (platformReset s) = 0x000F0000 :=
    calc statusWord (platformReset s)
      _ = statusWord State.reset := rfl
      _ = 0x000F0000 := by decide
  have scores : ∀ i : Fin 8, (platformReset s).pscore[i] = 0 := fun i => Vector.getElem_replicate i.isLt
  have light : ∀ x y, (platformReset s).gridM.get x y = false ∧ (platformReset s).gridF.get x y = false :=
    fun x y => ⟨Grid.get_clear x y, Grid.get_clear x y⟩
  exact ⟨platformReset s, rfl, status, rfl, rfl, rfl, rfl, rfl, rfl, rfl, rfl, rfl, rfl, rfl, rfl, rfl, rfl, scores,
    divRem, cw, data, light, rfl, rfl⟩

/-- The platform's reset leaves the reset state as it is. -/
theorem platformReset_reset : platformReset State.reset = State.reset := rfl

/-- Settles O59: the platform's reset establishes each invariant, and it leaves the reset state as it is. -/
theorem resetMeetsInvariants : Obligations.ResetMeetsInvariants := by
  unfold Obligations.ResetMeetsInvariants
  rw [← platformReset_reset]
  exact ⟨inv_platformReset _, shadowExact_of_clear rfl (.inr rfl), patternsKept_platformReset _⟩

end Sys2Proof.Machine
end
